-- ==== Sys2Proof/Word.lean ====
section
/-! DEFINITION. The widths the spec gives its values (00_scope.md R7, R9): bytes, the 16-bit CRC, the 32-bit address. -/

namespace Sys2Proof

/-- The unit of transfer on every data port: 8 bits (20_memory.md R50). -/
abbrev Byte := BitVec 8

/-- The width of the CRC and of its accumulators: 16 bits (00_scope.md R7). -/
abbrev Half := BitVec 16

/-- The width of the ADDR field of a Load or Jump payload: 32 bits (00_scope.md R9). -/
abbrev Addr := BitVec 32

end Sys2Proof
end

