-- ==== Sys2Proof/Machine/Crc.lean ====
section
/-! DEFINITION. The checksum (40_crc16.md R100 to R105): the byte step, its table, the equivalent forms, the checksum of a
message. Shared by units C, E and D (R112). -/

namespace Sys2Proof.Machine

/-- The polynomial 0x1021 (00_scope.md R7). -/
def crcPoly : Half := 0x1021#16

/-- One bit step: shift left one place; if the bit shifted out was 1, exclusive-or the polynomial in (40_crc16.md
R101). -/
def crcShift (r : Half) : Half := if r.msb then (r <<< 1) ^^^ crcPoly else r <<< 1

/-- Eight bit steps. -/
def crcShift8 (r : Half) : Half :=
  crcShift (crcShift (crcShift (crcShift (crcShift (crcShift (crcShift (crcShift r)))))))

/-- `TABLE[i]`, by its construction from `i << 8` (40_crc16.md R101). -/
def crcTable (i : Byte) : Half := crcShift8 (i.zeroExtend 16 <<< 8)

/-- `crc_step(acc, d) = TABLE[acc[15:8] ^ d] ^ {acc[7:0], 0x00}` (40_crc16.md R100). -/
def crcStep (acc : Half) (d : Byte) : Half := crcTable (acc.extractLsb' 8 8 ^^^ d) ^^^ (acc <<< 8)

/-- The bit-serial form of the byte step (40_crc16.md R102). -/
def crcStepSerial (acc : Half) (d : Byte) : Half := crcShift8 (acc ^^^ (d.zeroExtend 16 <<< 8))

/-- Bit `i` of the parallel form of the byte step (40_crc16.md R103), for `i` below 16. -/
def crcParallelBit (a : Half) (d : Byte) (i : Nat) : Bool :=
  let b (k : Nat) : Bool := a.getLsbD (8 + k) ^^ d.getLsbD k
  match i with
  | 15 => a.getLsbD 7 ^^ b 3 ^^ b 7
  | 14 => a.getLsbD 6 ^^ b 2 ^^ b 6
  | 13 => a.getLsbD 5 ^^ b 1 ^^ b 5
  | 12 => a.getLsbD 4 ^^ b 0 ^^ b 4 ^^ b 7
  | 11 => a.getLsbD 3 ^^ b 6
  | 10 => a.getLsbD 2 ^^ b 5
  | 9 => a.getLsbD 1 ^^ b 4
  | 8 => a.getLsbD 0 ^^ b 3 ^^ b 7
  | 7 => b 2 ^^ b 6 ^^ b 7
  | 6 => b 1 ^^ b 5 ^^ b 6
  | 5 => b 0 ^^ b 4 ^^ b 5
  | 4 => b 4
  | 3 => b 3 ^^ b 7
  | 2 => b 2 ^^ b 6
  | 1 => b 1 ^^ b 5
  | 0 => b 0 ^^ b 4
  | _ => false

/-- The byte step applied to each byte in order, from a given accumulator (40_crc16.md R104, R110 (a)). -/
def crcFold (acc : Half) (s : List Byte) : Half := s.foldl crcStep acc

/-- `crc16(s)`: from 0x0000, with no step after the last byte (40_crc16.md R104, R105). -/
def crc16 (s : List Byte) : Half := crcFold 0x0000#16 s

end Sys2Proof.Machine
end

