-- ==== Sys2Proof/Syntax.lean ====
section
/-! DEFINITION. The instructions: one constructor for each of the 25 rows of spec/opcode_table.json, and the ports at
which they occur. -/

namespace Sys2Proof

/-- The "instructions" of the block and its environment (00_scope.md R1): the frames, the reply bytes, the port events
and the pseudo-operations. -/
inductive Instr where
  /-- A frame with CMD 0x00 reaching unit D (42_frame_decoder.md R158). -/
  | abort (len : Byte) (crc : Half) (payload : List Byte)
  /-- A frame with CMD 0x01 reaching unit D (42_frame_decoder.md R159). -/
  | load (len : Byte) (crc : Half) (payload : List Byte)
  /-- A frame with CMD 0x02 reaching unit D (42_frame_decoder.md R160). -/
  | jump (len : Byte) (crc : Half) (payload : List Byte)
  /-- A frame with CMD 0x03 to 0xFF reaching unit D (42_frame_decoder.md R161). -/
  | reservedCmd (cmd len : Byte) (crc : Half) (payload : List Byte)
  /-- The reply byte 'K' reaching the producer (43_reply_codec.md R176). -/
  | rplK
  /-- The reply byte 'C' reaching the producer (43_reply_codec.md R177). -/
  | rplC
  /-- The reply byte 'U' reaching the producer (43_reply_codec.md R178). -/
  | rplU
  /-- The reply byte 'E' reaching the producer (43_reply_codec.md R179). -/
  | rplE
  /-- Any other content of one reply read: an undefined byte, no byte, or several (43_reply_codec.md R172, R174). -/
  | rplOther (read : List Byte)
  /-- C.CLR (40_crc16.md R106). -/
  | cClr
  /-- C.UPD d (40_crc16.md R107). -/
  | cUpd (d : Byte)
  /-- C.VAL (40_crc16.md R108). -/
  | cVal
  /-- E.BEGIN cmd (41_frame_encoder.md R122). -/
  | eBegin (cmd : Byte)
  /-- E.PUSH d (41_frame_encoder.md R123). -/
  | ePush (d : Byte)
  /-- E.END (41_frame_encoder.md R124). -/
  | eEnd
  /-- E.POP (41_frame_encoder.md R125). -/
  | ePop
  /-- E.RESEND (41_frame_encoder.md R126). -/
  | eResend
  /-- E.RELEASE (41_frame_encoder.md R127). -/
  | eRelease
  /-- D.RX b (42_frame_decoder.md R142). -/
  | dRx (b : Byte)
  /-- D.DONE ok (42_frame_decoder.md R152). -/
  | dDone (ok : Bool)
  /-- D.TX (42_frame_decoder.md R153). -/
  | dTx
  /-- R.DEC s (43_reply_codec.md R173). -/
  | rDec (read : List Byte)
  /-- SEND of one frame (44_link_protocol.md R181). -/
  | send (cmd : Byte) (payload : List Byte)
  /-- UPLOAD base, image (44_link_protocol.md R184). -/
  | upload (base : Addr) (image : List Byte)
  /-- BOOT base, image, entry (44_link_protocol.md R186). -/
  | boot (base entry : Addr) (image : List Byte)
deriving DecidableEq, Repr

/-- Where an instruction occurs. Port events have no opcode bits: which event occurs is told by its port
(30_encoding.md R86). Frames and replies occur at the wires that carry them. -/
inductive Port where
  | frame | reply
  | cClr | cUpd | cVal
  | eBegin | ePush | eEnd | ePop | eResend | eRelease
  | dRx | dDone | dTx
  | rDec
  | send | upload | boot
deriving DecidableEq, Repr

end Sys2Proof
end

