-- ==== Sys2Proof/Config.lean ====
section
/-! DEFINITION. What an implementation or the environment fixes: the parameters the spec names, what the agents outside
the block choose at each turn, and the free values of everything the spec leaves open (93_implementation_defined.md).
A free value is an opaque constant: nothing can be proved of it but that it is a value. -/

namespace Sys2Proof

/-- The classification of a received frame (10_state.md R35, 42_frame_decoder.md R150). -/
inductive Verdict where
  | accept    -- V_ACCEPT
  | crc       -- V_CRC
  | oversize  -- V_OVERSIZE
  | unknown   -- V_UNKNOWN
  | format    -- V_FORMAT
deriving DecidableEq, Repr, Inhabited

/-- The parameter `LINK_FAULTS` (44_link_protocol.md R180, D25, U11): how the link may fail. -/
inductive LinkFaults where
  | corruptOnly  -- every byte sent is delivered once, in order, possibly changed
  | any          -- bytes may also be lost, duplicated or inserted
deriving DecidableEq, Repr, Inhabited

/-- Who drives a port that the environment's own agent or the outside may drive (60_exceptions.md R213). -/
inductive Driver where
  | agent    -- the agent of the environment the rules name
  | outside  -- the outside, which then stands for that agent
deriving DecidableEq, Repr, Inhabited

/-- What the link does at one of its turns with one direction's stream (44_link_protocol.md R180). A delivered byte is
the byte sent, changed by the mask: every value can arrive (U11). -/
inductive LinkAct where
  | deliver (mask : Byte)    -- deliver the oldest byte, changed by `mask`
  | lose                     -- drop the oldest byte (`any` only)
  | duplicate (mask : Byte)  -- deliver the oldest byte and keep it in flight (`any` only)
  | insert (b : Byte)        -- deliver a byte that nobody sent (`any` only)
deriving DecidableEq, Repr, Inhabited

/-- Whose turn it is, with what that agent freely chooses (00_scope.md R3, R14). MODEL's own: the spec gives no
schedule, so every sequence of moves is a run. -/
inductive Move where
  | outside (port : Port)    -- the outside, with the first event it has at that port
  | link (act : LinkAct)     -- the link, towards unit D
  | executor (ok : Bool)     -- the executor reports an accepted command, `ok` of its free choice (U8)
  | replyOut                 -- the link takes the reply byte of unit D
  | producer (act : LinkAct) -- the link, towards the producer's reply read
  | reset                    -- the block's reset, which may come at any time (70_reset_and_hazards.md R230)
deriving DecidableEq, Repr, Inhabited

/-- `MAX_PAYLOAD` of this hardware: 251 (00_scope.md R8). -/
def Config.maxPayloadDefault : Byte := 251#8

/-- The request literal "sL5DdSMmkekro\n" (30_encoding.md R89, V80); no unit produces or recognises it. -/
def Config.magicRequest : List Byte :=
  [0x73, 0x4C, 0x35, 0x44, 0x64, 0x53, 0x4D, 0x6D, 0x6B, 0x65, 0x6B, 0x72, 0x6F, 0x0A]

/-- The acknowledge literal "z6IHG7cYDID6o\n" (30_encoding.md R89, V80); no unit produces or recognises it. -/
def Config.magicAck : List Byte :=
  [0x7A, 0x36, 0x49, 0x48, 0x47, 0x37, 0x63, 0x59, 0x44, 0x49, 0x44, 0x36, 0x6F, 0x0A]

/-- Free value: the turn taken when `moves` names none. DESIGN CHOICE, safe (log 7). -/
opaque Config.freeMove : Nat → Move

/-- Free value: the byte E.POP would emit at an index beyond the frame, which no run reaches (41_frame_encoder.md
R125 gives no line for it). DESIGN CHOICE, safe (log 17). -/
opaque Config.freeByte : Nat → Byte

/-- Free value: the target's memory after an accepted ABORT (U6), or after a Load past 2^32 (U7), as a list of writes
made to empty memory. DESIGN CHOICE, safe (logs 12, 13). -/
opaque Config.freeCells : Nat → List Host.Cell

/-- Free value: what a Load whose execution failed left at its `i`-th address: nothing new, or a byte (U8, R200).
DESIGN CHOICE, safe (log 14). -/
opaque Config.freeWrite : Nat → Nat → Option Byte

/-- Free value: where the target executes after an accepted ABORT, a Load past 2^32 or a failed Jump (U6, U7, U8). DESIGN
CHOICE, safe (logs 12, 13, 14). -/
opaque Config.freePc : Nat → Option Addr

/-- Free value: `cur + k` of an UPLOAD that passes 0xFFFFFFFF (U7). DESIGN CHOICE (log 15). -/
opaque Config.freeAddr : Nat → Addr

/-- Free values: the 8-bit registers and buffer bytes after a reset during a run (U9), told apart by the second
argument. DESIGN CHOICE, safe (log 11). -/
opaque Config.resetByte : Nat → Nat → Byte

/-- Free values: the 16-bit registers after a reset during a run (U9). DESIGN CHOICE, safe (log 11). -/
opaque Config.resetHalf : Nat → Nat → Half

/-- Free value: `e_idx` after a reset during a run (U9). DESIGN CHOICE, safe (log 11). -/
opaque Config.resetIdx : Nat → BitVec 9

/-- Free value: `e_ovf` after a reset during a run (U9). DESIGN CHOICE, safe (log 11). -/
opaque Config.resetFlag : Nat → Bool

/-- Free value: `d_verdict` after a reset during a run (U9). DESIGN CHOICE, safe (log 11). -/
opaque Config.resetVerdict : Nat → Verdict

end Sys2Proof
end

