-- ==== Sys2Proof/WellFormed.lean ====
section
/-! DEFINITION. Which instruction terms stand for something the spec describes. -/

namespace Sys2Proof

/-- LEN equals the number of payload bytes that follow CMD (30_encoding.md R72). -/
def lenMatches (len : Byte) (payload : List Byte) : Bool := payload.length == len.toNat

/-- The four defined contents of a reply read (43_reply_codec.md R170, R172). -/
def isDefinedReply (read : List Byte) : Bool :=
  read == [0x4B#8] || read == [0x43#8] || read == [0x55#8] || read == [0x45#8]

/-- A frame carries LEN payload bytes (R72); RESERVED_CMD stands for CMD 0x03 to 0xFF only (R161); RPL_OTHER for what is
not one of the four defined replies (R172). Every other operand is legal at every value. -/
def Instr.wf : Instr → Bool
  | .abort len _ payload => lenMatches len payload
  | .load len _ payload => lenMatches len payload
  | .jump len _ payload => lenMatches len payload
  | .reservedCmd cmd len _ payload => decide (3 ≤ cmd.toNat) && lenMatches len payload
  | .rplK => true
  | .rplC => true
  | .rplU => true
  | .rplE => true
  | .rplOther read => !isDefinedReply read
  | .cClr => true
  | .cUpd _ => true
  | .cVal => true
  | .eBegin _ => true
  | .ePush _ => true
  | .eEnd => true
  | .ePop => true
  | .eResend => true
  | .eRelease => true
  | .dRx _ => true
  | .dDone _ => true
  | .dTx => true
  | .rDec _ => true
  | .send _ _ => true
  | .upload _ _ => true
  | .boot _ _ _ => true

end Sys2Proof
end

