-- ==== Sys2Proof/Decode.lean ====
section
/-! DEFINITION. Byte order (20_memory.md R51), the codes of the wire (30_encoding.md R74, R78), the decoder from the bytes
at a port to an instruction, and the encoder the other way (30_encoding.md). -/

namespace Sys2Proof

/-! ### Byte order -/

/-- `be16(v)`: the more significant byte first (20_memory.md R51). -/
def be16 (v : Half) : List Byte := [v.extractLsb' 8 8, v.extractLsb' 0 8]

/-- `from_be16` of two bytes, the first the more significant. -/
def fromBe16 (hi lo : Byte) : Half := hi ++ lo

/-- `be32(v)`: the most significant byte first (20_memory.md R51). -/
def be32 (v : Addr) : List Byte :=
  [v.extractLsb' 24 8, v.extractLsb' 16 8, v.extractLsb' 8 8, v.extractLsb' 0 8]

/-- `from_be32` of four bytes: `p0 << 24 | p1 << 16 | p2 << 8 | p3` (30_encoding.md R85). -/
def fromBe32 (p0 p1 p2 p3 : Byte) : Addr := p0 ++ p1 ++ p2 ++ p3

/-! ### Codes -/

/-- CMD of Abort (30_encoding.md R74). -/
def cmdAbort : Byte := 0x00#8

/-- CMD of Load (30_encoding.md R74). -/
def cmdLoad : Byte := 0x01#8

/-- CMD of Jump (30_encoding.md R74). -/
def cmdJump : Byte := 0x02#8

/-- The reply byte 'K' (30_encoding.md R78). -/
def replyK : Byte := 0x4B#8

/-- The reply byte 'C' (30_encoding.md R78). -/
def replyC : Byte := 0x43#8

/-- The reply byte 'U' (30_encoding.md R78). -/
def replyU : Byte := 0x55#8

/-- The reply byte 'E' (30_encoding.md R78). -/
def replyE : Byte := 0x45#8

/-! ### From bytes at a port to an instruction -/

/-- Why the bytes at a port are no event of that port. -/
inductive DecodeError where
  | incompleteFrame   -- fewer than 4 + LEN bytes: `parse_frame` has no value (42_frame_decoder.md R141)
  | missingOperand    -- fewer operand bytes than the event carries (20_memory.md R56)
  | surplusOperand    -- operand bytes at a port whose event carries none (20_memory.md R56)
  | badOperandBit     -- a D.DONE operand that is neither 0 nor 1 (30_encoding.md R86)
deriving DecidableEq, Repr

/-- The frame instruction its command byte names (30_encoding.md R74, R80; the FRAME rows of opcode_table.json). -/
def frameInstr (cmd len : Byte) (crc : Half) (payload : List Byte) : Instr :=
  if cmd = cmdAbort then .abort len crc payload
  else if cmd = cmdLoad then .load len crc payload
  else if cmd = cmdJump then .jump len crc payload
  else .reservedCmd cmd len crc payload

/-- One frame from the front of a byte stream: LEN, CRC big-endian, CMD, LEN payload bytes (30_encoding.md R70, R71, R83);
the bytes after it are left (42_frame_decoder.md R141). -/
def decodeFrame : List Byte → Except DecodeError (Instr × List Byte)
  | len :: hi :: lo :: cmd :: rest =>
    if rest.length < len.toNat then .error .incompleteFrame
    else .ok (frameInstr cmd len (fromBe16 hi lo) (rest.take len.toNat), rest.drop len.toNat)
  | _ => .error .incompleteFrame

/-- What one reply read returned (30_encoding.md R78, R79): total, every content is one of the five REPLY rows. -/
def decodeReply (read : List Byte) : Instr :=
  if read = [replyK] then .rplK
  else if read = [replyC] then .rplC
  else if read = [replyU] then .rplU
  else if read = [replyE] then .rplE
  else .rplOther read

/-- An event without operands: the port carries no operand bits (20_memory.md R56). -/
def decodeBare (i : Instr) : List Byte → Except DecodeError (Instr × List Byte)
  | [] => .ok (i, [])
  | _ :: _ => .error .surplusOperand

/-- An event with one operand byte, from the front of the bytes waiting at its port. -/
def decodeByte (i : Byte → Instr) : List Byte → Except DecodeError (Instr × List Byte)
  | [] => .error .missingOperand
  | b :: rest => .ok (i b, rest)

/-- D.DONE's operand: 1 = success, 0 = failure (30_encoding.md R86). -/
def decodeDone : List Byte → Except DecodeError (Instr × List Byte)
  | [] => .error .missingOperand
  | b :: rest =>
    if b = 1#8 then .ok (.dDone true, rest)
    else if b = 0#8 then .ok (.dDone false, rest)
    else .error .badOperandBit

/-- SEND's operands as bytes: CMD, then the payload. The spec gives pseudo-operations no encoding: log 18. -/
def decodeSend : List Byte → Except DecodeError (Instr × List Byte)
  | [] => .error .missingOperand
  | cmd :: payload => .ok (.send cmd payload, [])

/-- UPLOAD's operands as bytes: `be32(base)`, then the image (log 18). -/
def decodeUpload : List Byte → Except DecodeError (Instr × List Byte)
  | a0 :: a1 :: a2 :: a3 :: image => .ok (.upload (fromBe32 a0 a1 a2 a3) image, [])
  | _ => .error .missingOperand

/-- BOOT's operands as bytes: `be32(base)`, `be32(entry)`, then the image (log 18). -/
def decodeBoot : List Byte → Except DecodeError (Instr × List Byte)
  | a0 :: a1 :: a2 :: a3 :: e0 :: e1 :: e2 :: e3 :: image =>
    .ok (.boot (fromBe32 a0 a1 a2 a3) (fromBe32 e0 e1 e2 e3) image, [])
  | _ => .error .missingOperand

/-- The next instruction of the bytes waiting at a port, and the bytes it leaves there; total, refusing by name. -/
def decode : Port → List Byte → Except DecodeError (Instr × List Byte)
  | .frame, bytes => decodeFrame bytes
  | .reply, bytes => .ok (decodeReply bytes, [])
  | .cClr, bytes => decodeBare .cClr bytes
  | .cUpd, bytes => decodeByte .cUpd bytes
  | .cVal, bytes => decodeBare .cVal bytes
  | .eBegin, bytes => decodeByte .eBegin bytes
  | .ePush, bytes => decodeByte .ePush bytes
  | .eEnd, bytes => decodeBare .eEnd bytes
  | .ePop, bytes => decodeBare .ePop bytes
  | .eResend, bytes => decodeBare .eResend bytes
  | .eRelease, bytes => decodeBare .eRelease bytes
  | .dRx, bytes => decodeByte .dRx bytes
  | .dDone, bytes => decodeDone bytes
  | .dTx, bytes => decodeBare .dTx bytes
  | .rDec, bytes => .ok (.rDec bytes, [])
  | .send, bytes => decodeSend bytes
  | .upload, bytes => decodeUpload bytes
  | .boot, bytes => decodeBoot bytes

/-! ### From an instruction to its port and bytes -/

/-- The wire bytes of a frame: LEN, CRC big-endian, CMD, payload (30_encoding.md R71). -/
def frameWire (cmd len : Byte) (crc : Half) (payload : List Byte) : List Byte :=
  [len] ++ be16 crc ++ [cmd] ++ payload

/-- The port at which an instruction occurs. -/
def Instr.port : Instr → Port
  | .abort _ _ _ => .frame
  | .load _ _ _ => .frame
  | .jump _ _ _ => .frame
  | .reservedCmd _ _ _ _ => .frame
  | .rplK => .reply
  | .rplC => .reply
  | .rplU => .reply
  | .rplE => .reply
  | .rplOther _ => .reply
  | .cClr => .cClr
  | .cUpd _ => .cUpd
  | .cVal => .cVal
  | .eBegin _ => .eBegin
  | .ePush _ => .ePush
  | .eEnd => .eEnd
  | .ePop => .ePop
  | .eResend => .eResend
  | .eRelease => .eRelease
  | .dRx _ => .dRx
  | .dDone _ => .dDone
  | .dTx => .dTx
  | .rDec _ => .rDec
  | .send _ _ => .send
  | .upload _ _ => .upload
  | .boot _ _ _ => .boot

/-- The bytes an instruction carries at its port: the whole frame, the reply byte, or the operand bits. -/
def encode : Instr → List Byte
  | .abort len crc payload => frameWire cmdAbort len crc payload
  | .load len crc payload => frameWire cmdLoad len crc payload
  | .jump len crc payload => frameWire cmdJump len crc payload
  | .reservedCmd cmd len crc payload => frameWire cmd len crc payload
  | .rplK => [replyK]
  | .rplC => [replyC]
  | .rplU => [replyU]
  | .rplE => [replyE]
  | .rplOther read => read
  | .cClr => []
  | .cUpd d => [d]
  | .cVal => []
  | .eBegin cmd => [cmd]
  | .ePush d => [d]
  | .eEnd => []
  | .ePop => []
  | .eResend => []
  | .eRelease => []
  | .dRx b => [b]
  | .dDone ok => [if ok then 1#8 else 0#8]
  | .dTx => []
  | .rDec read => read
  | .send cmd payload => cmd :: payload
  | .upload base image => be32 base ++ image
  | .boot base entry image => be32 base ++ be32 entry ++ image

/-! ### Words of the opcode table -/

/-- Where a word of opcode_table.json stands, as bytes at a port: a 32-bit word is the header
`H = {byte 0, byte 1, byte 2, byte 3}` of a frame (30_encoding.md R71) with its LEN payload bytes zero; an 8-bit word is
one reply byte. The EVENT and PSEUDO rows have no opcode bits (R86), so no word names them (log 7). -/
def tableStimulus (nbits w : Nat) : Option (Port × List Byte) :=
  if nbits = 32 then
    let header : Addr := BitVec.ofNat 32 w
    some (.frame, be32 header ++ List.replicate (header.extractLsb' 24 8).toNat 0#8)
  else if nbits = 8 then some (.reply, [BitVec.ofNat 8 w])
  else none

/-- The instruction the decoder reads from a word of opcode_table.json. -/
def decodeTableWord (nbits w : Nat) : Option Instr :=
  match tableStimulus nbits w with
  | none => none
  | some (p, bytes) =>
    match decode p bytes with
    | .ok (i, _) => some i
    | .error _ => none

end Sys2Proof
end

