-- ==== Sys2Proof/Machine/State.lean ====
section
/-! DEFINITION. The state of the machine (10_state.md), what its ports emit, the environment's state that
44_link_protocol.md names, and the state after reset. -/

namespace Sys2Proof.Machine

/-- Why a step would stop with a fault. It has no constructor: no behaviour of the spec stops the block. Its error
outcomes are verdicts, replies and statuses (60_exceptions.md R200), never a stop. -/
inductive Fault
deriving DecidableEq, Repr

/-- Why an instruction has no step. -/
inductive Refusal where
  /-- Raised by an arm of `exec` whose instruction has no meaning yet; no arm raises it. Safe: nothing is claimed of such
  an instruction. -/
  | notModelled (mnemonic : String)
deriving DecidableEq, Repr

/-- The values of `e_state` (10_state.md R21). -/
inductive EState where
  | idle  -- E_IDLE
  | fill  -- E_FILL
  | send  -- E_SEND
  | done  -- E_DONE
deriving DecidableEq, Repr

/-- The values of `d_state` (10_state.md R28). -/
inductive DState where
  | len   -- D_LEN
  | crcH  -- D_CRCH
  | crcL  -- D_CRCL
  | cmd   -- D_CMD
  | pay   -- D_PAY
  | exec  -- D_EXEC
  | rply  -- D_RPLY
deriving DecidableEq, Repr

/-- What a reply read decodes to (43_reply_codec.md R172). -/
inductive Reply where
  | success | crcError | unknown | error
deriving DecidableEq, Repr

/-- The result of E.END (41_frame_encoder.md R124). -/
inductive EncStatus where
  | ok      -- ENC_OK
  | reject  -- ENC_REJECT
deriving DecidableEq, Repr

/-- One result presented at an output port (20_memory.md R56). -/
inductive Output where
  | crc (v : Half)               -- C.VAL
  | status (st : EncStatus)      -- E.END
  | wire (b : Byte) (last : Bool) -- E.POP
  | reply (r : Byte)             -- D.TX
  | decoded (r : Reply)          -- R.DEC
deriving DecidableEq, Repr

/-- Unit C: `c_acc` (10_state.md R20). -/
structure UnitC where
  acc : Half
deriving DecidableEq, Repr

/-- Unit E: `e_state`, `e_cmd`, `e_len`, `e_buf`, `e_acc`, `e_ovf`, `e_idx` (10_state.md R21 to R27). -/
structure UnitE where
  state : EState
  cmd : Byte
  len : Byte
  buf : List Byte
  acc : Half
  ovf : Bool
  idx : BitVec 9
deriving DecidableEq, Repr

/-- Unit D: `d_state`, `d_len`, `d_crc`, `d_cmd`, `d_cnt`, `d_buf`, `d_acc`, `d_verdict`, `d_reply`
(10_state.md R28 to R36). -/
structure UnitD where
  state : DState
  len : Byte
  crc : Half
  cmd : Byte
  cnt : Byte
  buf : List Byte
  acc : Half
  verdict : Verdict
  reply : Byte
deriving DecidableEq, Repr

/-- The one driver of each port (60_exceptions.md R213, log 9): of D.RX, D.TX and the reply read, which the spec's link
drives, and of D.DONE, which its executor drives. The ports of units C and E, R.DEC and the pseudo-operations are always the
outside's: it is the user of unit C and the producer. -/
structure Drivers where
  link : Driver
  executor : Driver
deriving DecidableEq, Repr

/-- The static parameters: `MAX_PAYLOAD` (00_scope.md R8), `LINK_FAULTS` (44_link_protocol.md R180) and who drives which port
(60_exceptions.md R213). Nothing writes them; they stand in the state so that a statement about every state holds for every
value of them (logs 2, 3, 9). -/
structure Params where
  maxPayload : Byte
  linkFaults : LinkFaults
  drivers : Drivers
deriving DecidableEq, Repr

/-- Environment: the bytes in flight in each direction, oldest first (44_link_protocol.md R180). -/
structure Link where
  fwd : List Byte   -- from E.POP to D.RX
  back : List Byte  -- from D.TX to the producer's reply read
deriving DecidableEq, Repr

/-- Why a pseudo-operation failed (44_link_protocol.md R181: ProtocolError). -/
inductive SendFailure where
  | oversized | unknown | error
deriving DecidableEq, Repr

/-- Environment: the pseudo-operation whose frame the producer has written and whose reply it is reading. -/
inductive Job where
  /-- SEND (44_link_protocol.md R181). -/
  | send
  /-- The LOAD frame of one chunk of UPLOAD or, with an entry address, of BOOT: `image`, `cur`, `pos` and `k` as in
  44_link_protocol.md R184. -/
  | chunk (image : List Byte) (cur : Addr) (pos k : Nat) (entry : Option Addr)
  /-- The JUMP frame of BOOT (44_link_protocol.md R186). -/
  | jump
deriving DecidableEq, Repr

/-- Environment: what a pseudo-operation returned: SEND as 44_link_protocol.md R181 has it, UPLOAD as R184. R186 gives no
result for BOOT; here it is UPLOAD's failure, or `bootOk` or `jumpFailed` without the bytes sent: DESIGN CHOICE (log 27). -/
inductive JobResult where
  | sendOk
  | sendFailed (why : SendFailure)
  | uploadOk (bytesSent : Nat)
  | uploadFailed (why : SendFailure) (address : Addr) (bytesSent : Nat)
  | bootOk
  | jumpFailed (why : SendFailure)
deriving DecidableEq, Repr

/-- Environment: the producer's pseudo-operation in progress and the last result (44_link_protocol.md R181 to R187). -/
structure Producer where
  job : Option Job
  result : Option JobResult
deriving DecidableEq, Repr

/-- The target's memory: address and byte pairs, addresses strictly rising and below 2^32. An address not listed has no
known value: the spec gives the target no contents (20_memory.md R60, log 5). -/
abbrev Memory := List Host.Cell

/-- Environment: the target the executor acts on (20_memory.md R60, 42_frame_decoder.md R158 to R160). -/
structure Target where
  mem : Memory
  pc : Option Addr  -- where it was told to start execution, if it was
deriving DecidableEq, Repr

/-- Bytes the outside has put at a port and that no event has taken yet. MODEL's own (log 7). -/
structure Stimulus where
  port : Port
  bytes : List Byte
deriving DecidableEq, Repr

/-- The state: the units C, E and D; the static parameters; the environment; and the model's own record of what the
ports emitted, of what the outside wants, of whose turns come next, and the counter behind the free values. -/
structure State where
  c : UnitC
  e : UnitE
  d : UnitD
  params : Params
  ports : List Output
  link : Link
  producer : Producer
  target : Target
  agenda : List Stimulus
  moves : List Move
  tick : Nat
deriving DecidableEq, Repr

/-- What one turn comes to, before any instruction runs. MODEL's own (log 7). -/
inductive Turn where
  | quiet (t : State)             -- no event occurs; the state is then `t`
  | run (i : Instr) (t : State)   -- the instruction `i` occurs in `t`
deriving DecidableEq, Repr

/-- After reset: `c_acc` = 0x0000, `e_state` = `E_IDLE`, `d_state` = `D_LEN` (10_state.md R44). Every other register
is unspecified there and holds the value log 1 names; the environment is at rest (log 4). -/
def State.reset : State where
  c := { acc := 0x0000#16 }
  e := { state := .idle, cmd := 0#8, len := 0#8, buf := List.replicate Config.maxPayloadDefault.toNat 0#8,
         acc := 0#16, ovf := false, idx := 0#9 }
  d := { state := .len, len := 0#8, crc := 0#16, cmd := 0#8, cnt := 0#8,
         buf := List.replicate Config.maxPayloadDefault.toNat 0#8, acc := 0#16, verdict := .accept, reply := 0#8 }
  params := { maxPayload := Config.maxPayloadDefault, linkFaults := .any,
              drivers := { link := .agent, executor := .agent } }
  ports := []
  link := { fwd := [], back := [] }
  producer := { job := none, result := none }
  target := { mem := [], pc := none }
  agenda := []
  moves := []
  tick := 0

end Sys2Proof.Machine
end

