-- ==== Sys2Proof/Machine/Flags.lean ====
section
/-! DEFINITION. The status indications (10_state.md R41): the overflow condition of E.PUSH, `crc_ok`, the verdict, and the
reply byte and the reply value that carry an outcome to the other end (43_reply_codec.md). -/

namespace Sys2Proof.Machine

/-- The condition under which E.PUSH stores its byte; otherwise it sets `e_ovf` (41_frame_encoder.md R123). -/
def bufferHasRoom (maxPayload len : Byte) : Bool := decide (len.toNat < maxPayload.toNat)

/-- `crc_ok` (42_frame_decoder.md R149). -/
def crcOk (crcRx acc : Half) : Bool := acc == crcRx

/-- `verdict(len, crc_rx, cmd, acc)`: the first line whose condition holds (42_frame_decoder.md R150). -/
def verdictOf (maxPayload len : Byte) (crcRx : Half) (cmd : Byte) (acc : Half) : Verdict :=
  if !crcOk crcRx acc then .crc
  else if maxPayload.toNat < len.toNat then .oversize
  else if cmdJump.toNat < cmd.toNat then .unknown
  else if cmd = cmdLoad ∧ len.toNat < 4 then .format
  else if cmd = cmdJump ∧ len.toNat ≠ 4 then .format
  else .accept

/-- The byte unit D sends for each outcome of a frame; `ok` is the executor's report and counts for `V_ACCEPT` only
(43_reply_codec.md R171). -/
def replyEncode (v : Verdict) (ok : Bool) : Byte :=
  match v with
  | .crc => replyC
  | .unknown => replyU
  | .oversize => replyE
  | .format => replyE
  | .accept => if ok then replyK else replyE

/-- `reply_decode(s)` (43_reply_codec.md R172, R174): exact equality with one of the four, else Unknown. -/
def replyDecode (read : List Byte) : Reply :=
  if read = [replyK] then .success
  else if read = [replyC] then .crcError
  else if read = [replyU] then .unknown
  else if read = [replyE] then .error
  else .unknown

end Sys2Proof.Machine
end

