-- ==== Sys2Proof/Machine/Operands.lean ====
section
/-! DEFINITION. Operand forms: the wire byte E.POP selects, the frame as a function (`encode`, `parse_frame`), the command
the executor interface shows, and the chunks of an upload. -/

namespace Sys2Proof.Machine

/-! ### Unit E -/

/-- The wire byte at `e_idx` (41_frame_encoder.md R125); `beyond` where R125 has no line (log 17). -/
def wireByte (e : UnitE) (beyond : Byte) : Byte :=
  if e.idx = 0#9 then e.len
  else if e.idx = 1#9 then e.acc.extractLsb' 8 8
  else if e.idx = 2#9 then e.acc.extractLsb' 0 8
  else if e.idx = 3#9 then e.cmd
  else if e.idx.toNat ≤ 3 + e.len.toNat then e.buf.getD (e.idx.toNat - 4) beyond
  else beyond

/-- `last`: the byte at `e_idx` is the frame's last (41_frame_encoder.md R125). -/
def isLastByte (e : UnitE) : Bool := e.idx.toNat == 3 + e.len.toNat

/-- The payload bytes stored in unit E so far, `e_buf[0..e_len]` (10_state.md R24). -/
def UnitE.payload (e : UnitE) : List Byte := e.buf.take e.len.toNat

/-- The command bytes E.BEGIN takes (41_frame_encoder.md R122; 30_encoding.md R74). -/
def isCommand (cmd : Byte) : Bool := cmd == cmdAbort || cmd == cmdLoad || cmd == cmdJump

/-- `encode(cmd, payload)` (41_frame_encoder.md R120). The spec leaves it undefined for a command byte above 0x02 and for a
payload beyond `MAX_PAYLOAD` (R121); that it is total here, LEN being the low 8 bits of the payload's length, is a DESIGN CHOICE
(log 24): no instruction uses it. -/
def encodeFrame (cmd : Byte) (payload : List Byte) : List Byte :=
  [BitVec.ofNat 8 payload.length] ++ be16 (crc16 (cmd :: payload)) ++ [cmd] ++ payload

/-! ### Unit D -/

/-- The record `parse_frame` gives (42_frame_decoder.md R141). -/
structure ParsedFrame where
  len : Byte
  crcRx : Half
  cmd : Byte
  payload : List Byte
  acc : Half
  verdict : Verdict
  rest : List Byte
deriving DecidableEq, Repr

/-- `parse_frame(s)`: no value where fewer than `4 + s[0]` bytes are there (42_frame_decoder.md R141). -/
def parseFrame (maxPayload : Byte) : List Byte → Option ParsedFrame
  | len :: hi :: lo :: cmd :: rest =>
    if rest.length < len.toNat then none
    else
      let payload := rest.take len.toNat
      let acc := crc16 (cmd :: payload)
      some { len := len, crcRx := fromBe16 hi lo, cmd := cmd, payload := payload, acc := acc,
             verdict := verdictOf maxPayload len (fromBe16 hi lo) cmd acc, rest := rest.drop len.toNat }
  | _ => none

/-- An accepted command as the executor takes it (42_frame_decoder.md R154, R158 to R160). -/
inductive Command where
  | abort
  | load (addr : Addr) (data : List Byte)
  | jump (addr : Addr)
deriving DecidableEq, Repr

/-- The ADDR field, `from_be32(d_buf[0..4])` (30_encoding.md R85). -/
def addrField (buf : List Byte) : Addr :=
  fromBe32 (buf.getD 0 0#8) (buf.getD 1 0#8) (buf.getD 2 0#8) (buf.getD 3 0#8)

/-- The received payload, `d_buf[0..d_len]` (42_frame_decoder.md R154). -/
def UnitD.payload (d : UnitD) : List Byte := d.buf.take d.len.toNat

/-- The command that `d_cmd`, `d_len` and `d_buf` stand for: LOAD's `addr` and `data = d_buf[4..d_len]` (R159), JUMP's
`addr` (R160), ABORT whatever its payload (R158). -/
def commandOf (d : UnitD) : Command :=
  if d.cmd = cmdLoad then .load (addrField d.payload) (d.payload.drop 4)
  else if d.cmd = cmdJump then .jump (addrField d.payload)
  else .abort

/-- What the executor can read of an accepted command: `d_cmd`, `d_len` and `d_buf[0..d_len]` (20_memory.md R56). -/
structure ExecutorPort where
  cmd : Byte
  len : Byte
  buf : List Byte
deriving DecidableEq, Repr

/-- The executor interface: readable while `d_state = D_EXEC`, for every command, and nothing outside it
(42_frame_decoder.md R154, 10_state.md R39). `commandOf` is what it stands for. -/
def executorView (d : UnitD) : Option ExecutorPort :=
  if d.state = .exec then some { cmd := d.cmd, len := d.len, buf := d.payload } else none

/-! ### The upload sequence (environment) -/

/-- `CHUNK_MAX` = `MAX_PAYLOAD` - 4 (00_scope.md R10); 0 where `MAX_PAYLOAD` is below 4. -/
def chunkMax (maxPayload : Byte) : Nat := maxPayload.toNat - 4

/-- `k = min(CHUNK_MAX, len(image) - pos)` (44_link_protocol.md R184). -/
def chunkSize (maxPayload : Byte) (image : List Byte) (pos : Nat) : Nat :=
  min (chunkMax maxPayload) (image.length - pos)

/-- `be32(cur) ++ image[pos .. pos+k]` (44_link_protocol.md R184). -/
def chunkPayload (cur : Addr) (image : List Byte) (pos k : Nat) : List Byte :=
  be32 cur ++ (image.drop pos).take k

/-- `cur + k`; past 0xFFFFFFFF the spec gives no value (U7): `beyond`, a free value (log 15). -/
def nextAddress (cur : Addr) (k : Nat) (beyond : Addr) : Addr :=
  if cur.toNat + k < 2 ^ 32 then cur + BitVec.ofNat 32 k else beyond

end Sys2Proof.Machine
end

