-- ==== Sys2Proof/Machine/Ops.lean ====
section
/-! DEFINITION. The shared operations: the target's memory, each unit's transitions on that unit alone, and the taking of an
error outcome and the return from one (60_exceptions.md R206, R207). -/

namespace Sys2Proof.Machine

/-! ### The target's memory -/

/-- Canonical form from an address on: addresses strictly rising, below 2^32. -/
def Memory.wfFrom : Nat → Memory → Bool
  | _, [] => true
  | lo, (a, _) :: rest => decide (lo ≤ a) && decide (a < 2 ^ 32) && Memory.wfFrom (a + 1) rest

/-- The canonical form of the target's memory. -/
def Memory.wf (m : Memory) : Bool := Memory.wfFrom 0 m

/-- The byte at an address; none where its value is not known. -/
def Memory.read : Memory → Nat → Option Byte
  | [], _ => none
  | (a, b) :: rest, at' => if a = at' then some b else Memory.read rest at'

/-- `MemWrite(addr, 1, b)` in the target's address space; addresses at or above 2^32 do not exist and are not written. -/
def Memory.insert : Memory → Nat → Byte → Memory
  | [], at', b => [(at', b)]
  | (a, x) :: rest, at', b =>
    if at' < a then (at', b) :: (a, x) :: rest
    else if at' = a then (at', b) :: rest
    else (a, x) :: Memory.insert rest at' b

/-- One byte written; an address at or above 2^32 is not in the address space and leaves the memory as it is. -/
def Memory.write (m : Memory) (at' : Nat) (b : Byte) : Memory :=
  if at' < 2 ^ 32 then Memory.insert m at' b else m

/-- Bytes written to consecutive addresses, lowest first (20_memory.md R60, 42_frame_decoder.md R159). -/
def Memory.writeBytes (m : Memory) (at' : Nat) : List Byte → Memory
  | [] => m
  | b :: bs => Memory.writeBytes (Memory.write m at' b) (at' + 1) bs

/-- Memory of which nothing is known but the writes listed: how a free value of the whole memory is taken. -/
def Memory.ofCells : List Host.Cell → Memory
  | [] => []
  | (a, b) :: cells => Memory.write (Memory.ofCells cells) a b

/-- What a Load that failed left at `n` consecutive addresses: at each, nothing new or some byte (log 14). -/
def Memory.writeSome (m : Memory) (at' : Nat) (choice : Nat → Option Byte) : Nat → Memory
  | 0 => m
  | n + 1 =>
    match choice n with
    | some b => Memory.write (Memory.writeSome m at' choice n) (at' + n) b
    | none => Memory.writeSome m at' choice n

/-! ### Output ports -/

/-- `emit p(v)`: a value presented on an output port (00_scope.md section 6). -/
def State.emit (s : State) (o : Output) : State := { s with ports := s.ports ++ [o] }

/-! ### Unit C -/

/-- C.CLR: `c_acc <- 0x0000` (40_crc16.md R106). -/
def clearC (_ : UnitC) : UnitC := { acc := 0x0000#16 }

/-- C.UPD d: `c_acc <- crc_step(c_acc, d)` (40_crc16.md R107). -/
def updateC (d : Byte) (c : UnitC) : UnitC := { acc := crcStep c.acc d }

/-! ### Unit E -/

/-- E.BEGIN cmd (41_frame_encoder.md R122). -/
def beginE (cmd : Byte) (e : UnitE) : UnitE :=
  { e with cmd := cmd, len := 0#8, ovf := false, acc := crcStep 0x0000#16 cmd, state := .fill }

/-- E.PUSH d: stored while the buffer has room, else dropped and `e_ovf` set (41_frame_encoder.md R123). -/
def pushE (maxPayload d : Byte) (e : UnitE) : UnitE :=
  if bufferHasRoom maxPayload e.len then
    { e with buf := e.buf.set e.len.toNat d, acc := crcStep e.acc d, len := e.len + 1#8 }
  else { e with ovf := true }

/-- E.END with `e_ovf` = 0: the frame is closed and its first byte is next (41_frame_encoder.md R124). -/
def closeE (e : UnitE) : UnitE := { e with idx := 0#9, state := .send }

/-- E.END with `e_ovf` = 1, the outcome `EncOversize`: only `e_state` is written (60_exceptions.md R206). -/
def rejectE (e : UnitE) : UnitE := { e with state := .idle }

/-- E.END: the new unit E (41_frame_encoder.md R124). -/
def endE (e : UnitE) : UnitE := if e.ovf then rejectE e else closeE e

/-- E.END: its result (41_frame_encoder.md R124). -/
def endStatus (e : UnitE) : EncStatus := if e.ovf then .reject else .ok

/-- E.POP: `e_idx` moves on, and the last byte ends the emission (41_frame_encoder.md R125). -/
def popE (e : UnitE) : UnitE :=
  { e with idx := e.idx + 1#9, state := if isLastByte e then .done else e.state }

/-- E.RESEND: the held frame again from byte 0 (41_frame_encoder.md R126). -/
def resendE (e : UnitE) : UnitE := { e with idx := 0#9, state := .send }

/-- E.RELEASE (41_frame_encoder.md R127). -/
def releaseE (e : UnitE) : UnitE := { e with state := .idle }

/-! ### Unit D, and its error outcomes -/

/-- Taking an error outcome of a received frame: the verdict and its reply byte are written and the reply waits;
nothing is saved (60_exceptions.md R206, 42_frame_decoder.md R148). -/
def takeOutcome (v : Verdict) (d : UnitD) : UnitD :=
  { d with verdict := v, reply := replyEncode v false, state := .rply }

/-- Accepting a frame: its command is with the executor (42_frame_decoder.md R148). -/
def acceptFrame (d : UnitD) : UnitD := { d with verdict := .accept, state := .exec }

/-- `complete(acc', cmd')` on a unit D whose `d_acc` and `d_cmd` are already the new ones (42_frame_decoder.md R148). -/
def completeD (maxPayload : Byte) (d : UnitD) : UnitD :=
  match verdictOf maxPayload d.len d.crc d.cmd d.acc with
  | .accept => acceptFrame d
  | v => takeOutcome v d

/-- D.RX b in `D_LEN` (42_frame_decoder.md R143). -/
def rxLen (b : Byte) (d : UnitD) : UnitD := { d with len := b, cnt := 0#8, state := .crcH }

/-- D.RX b in `D_CRCH` (42_frame_decoder.md R144). -/
def rxCrcH (b : Byte) (d : UnitD) : UnitD := { d with crc := b ++ d.crc.extractLsb' 0 8, state := .crcL }

/-- D.RX b in `D_CRCL` (42_frame_decoder.md R145). -/
def rxCrcL (b : Byte) (d : UnitD) : UnitD := { d with crc := d.crc.extractLsb' 8 8 ++ b, state := .cmd }

/-- D.RX b in `D_CMD` (42_frame_decoder.md R146). -/
def rxCmd (maxPayload b : Byte) (d : UnitD) : UnitD :=
  let d' := { d with cmd := b, acc := crcStep 0x0000#16 b }
  if d.len = 0#8 then completeD maxPayload d' else { d' with state := .pay }

/-- D.RX b in `D_PAY`: stored while `d_cnt` is within the buffer, always summed (42_frame_decoder.md R147). -/
def rxPay (maxPayload b : Byte) (d : UnitD) : UnitD :=
  let d' := { d with
    buf := if d.cnt.toNat < maxPayload.toNat then d.buf.set d.cnt.toNat b else d.buf
    acc := crcStep d.acc b
    cnt := d.cnt + 1#8 }
  if d.cnt.toNat + 1 = d.len.toNat then completeD maxPayload d' else d'

/-- D.RX b, by `d_state` (42_frame_decoder.md R142 to R148). -/
def receiveD (maxPayload b : Byte) (d : UnitD) : UnitD :=
  match d.state with
  | .len => rxLen b d
  | .crcH => rxCrcH b d
  | .crcL => rxCrcL b d
  | .cmd => rxCmd maxPayload b d
  | .pay => rxPay maxPayload b d
  | .exec => d
  | .rply => d

/-- D.RX of each byte of a sequence in order, as far as unit D takes them (42_frame_decoder.md R155). -/
def receiveAll (maxPayload : Byte) (bytes : List Byte) (d : UnitD) : UnitD :=
  bytes.foldl (fun d b => receiveD maxPayload b d) d

/-- D.DONE ok: the reply to the accepted frame; `ok` = 0 is the outcome `ExecError`, which leaves `d_verdict` as it is
(42_frame_decoder.md R152, 60_exceptions.md R206). -/
def doneD (ok : Bool) (d : UnitD) : UnitD := { d with reply := replyEncode .accept ok, state := .rply }

/-- D.TX, the return from any outcome: nothing is restored, a LEN byte is next (42_frame_decoder.md R153,
60_exceptions.md R207). -/
def transmitD (d : UnitD) : UnitD := { d with state := .len }

/-! ### The target -/

/-- What a report `ok` of an accepted command says of the target (44_link_protocol.md R189 (c)). LOAD done: every
byte is at its address (42_frame_decoder.md R159), and past 2^32 nothing is known of the target (U7, log 13). LOAD
failed: only its own addresses can differ (R200, log 14). JUMP done: execution starts at `addr` (R160). ABORT, and a
failed JUMP: free values (U6, U8, logs 12, 14). -/
def carryOut (cmd : Command) (ok : Bool) (tick : Nat) (t : Target) : Target :=
  match cmd with
  | .abort => { mem := Memory.ofCells (Config.freeCells tick), pc := Config.freePc tick }
  | .load addr data =>
    if addr.toNat + data.length ≤ 2 ^ 32 then
      if ok then { t with mem := Memory.writeBytes t.mem addr.toNat data }
      else { t with mem := Memory.writeSome t.mem addr.toNat (Config.freeWrite tick) data.length }
    else { mem := Memory.ofCells (Config.freeCells tick), pc := Config.freePc tick }
  | .jump addr => { t with pc := if ok then some addr else Config.freePc tick }

end Sys2Proof.Machine
end

