-- ==== Sys2Proof/Machine/Enabling.lean ====
section
/-! DEFINITION. The enabling condition of every instruction (00_scope.md R13). An event that is not enabled does not occur:
it changes nothing and its agent waits. -/

namespace Sys2Proof.Machine

/-- E.BEGIN: `e_state = E_IDLE` and a command byte of the data model (41_frame_encoder.md R122). -/
def beginEnabled (cmd : Byte) (e : UnitE) : Bool := e.state == .idle && isCommand cmd

/-- E.PUSH and E.END: `e_state = E_FILL` (41_frame_encoder.md R123, R124). -/
def fillEnabled (e : UnitE) : Bool := e.state == .fill

/-- E.POP: `e_state = E_SEND` (41_frame_encoder.md R125). -/
def popEnabled (e : UnitE) : Bool := e.state == .send

/-- E.RESEND and E.RELEASE: `e_state = E_DONE` (41_frame_encoder.md R126, R127). -/
def heldEnabled (e : UnitE) : Bool := e.state == .done

/-- D.RX: one of the five receiving states (42_frame_decoder.md R142). -/
def rxEnabled (d : UnitD) : Bool := d.state != .exec && d.state != .rply

/-- A whole frame: unit D expects a LEN byte (42_frame_decoder.md R155). -/
def frameEnabled (d : UnitD) : Bool := d.state == .len

/-- D.DONE: `d_state = D_EXEC` (42_frame_decoder.md R152). -/
def doneEnabled (d : UnitD) : Bool := d.state == .exec

/-- D.TX: `d_state = D_RPLY` (42_frame_decoder.md R153). -/
def txEnabled (d : UnitD) : Bool := d.state == .rply

/-- SEND: the producer runs one pseudo-operation at a time (44_link_protocol.md R182) and its E.BEGIN is enabled. -/
def sendEnabled (cmd : Byte) (s : State) : Bool := s.producer.job.isNone && beginEnabled cmd s.e

/-- UPLOAD: no pseudo-operation in progress, and unit E idle if there is a frame to send (44_link_protocol.md R184). -/
def uploadEnabled (image : List Byte) (s : State) : Bool :=
  s.producer.job.isNone && (image.isEmpty || s.e.state == .idle)

/-- BOOT: no pseudo-operation in progress and unit E idle; it always sends a frame (44_link_protocol.md R186). -/
def bootEnabled (s : State) : Bool := s.producer.job.isNone && s.e.state == .idle

/-- The enabling condition of an instruction. The reply rows and R.DEC are always enabled (43_reply_codec.md R173). -/
def enabled (i : Instr) (s : State) : Bool :=
  match i with
  | .abort _ _ _ => frameEnabled s.d
  | .load _ _ _ => frameEnabled s.d
  | .jump _ _ _ => frameEnabled s.d
  | .reservedCmd _ _ _ _ => frameEnabled s.d
  | .rplK => true
  | .rplC => true
  | .rplU => true
  | .rplE => true
  | .rplOther _ => true
  | .cClr => true
  | .cUpd _ => true
  | .cVal => true
  | .eBegin cmd => beginEnabled cmd s.e
  | .ePush _ => fillEnabled s.e
  | .eEnd => fillEnabled s.e
  | .ePop => popEnabled s.e
  | .eResend => heldEnabled s.e
  | .eRelease => heldEnabled s.e
  | .dRx _ => rxEnabled s.d
  | .dDone _ => doneEnabled s.d
  | .dTx => txEnabled s.d
  | .rDec _ => true
  | .send cmd _ => sendEnabled cmd s
  | .upload _ image => uploadEnabled image s
  | .boot _ _ _ => bootEnabled s

/-- The outcome of an event: the transition `t` where it is enabled, and nothing changed where it is not (00_scope.md R13,
log 19). -/
def occurs (isEnabled : Bool) (t s : State) : Host.Outcome State Fault Refusal :=
  .next (if isEnabled then t else s)

end Sys2Proof.Machine
end

