-- ==== Sys2Proof/Machine/Producer.lean ====
section
/-! DEFINITION. Shared operations over the whole state: port events of unit E with the link behind E.POP, a whole frame at
unit D, and the producer's pseudo-operations (44_link_protocol.md R181 to R187). -/

namespace Sys2Proof.Machine

/-! ### Port events that pass a byte to the link -/

/-- E.POP: the wire byte and `last` are presented (41_frame_encoder.md R125) and the byte is in flight towards unit D
(44_link_protocol.md R180). -/
def popByte (s : State) : State :=
  let b := wireByte s.e (Config.freeByte s.tick)
  { s.emit (.wire b (isLastByte s.e)) with e := popE s.e, link := { s.link with fwd := s.link.fwd ++ [b] } }

/-- D.TX: the reply byte is presented (42_frame_decoder.md R153) and is in flight towards the producer
(44_link_protocol.md R180). -/
def transmitReply (s : State) : State :=
  { s.emit (.reply s.d.reply) with d := transmitD s.d, link := { s.link with back := s.link.back ++ [s.d.reply] } }

/-- E.END with its result (41_frame_encoder.md R124). -/
def endFrame (s : State) : State := { s.emit (.status (endStatus s.e)) with e := endE s.e }

/-! ### A whole frame at unit D -/

/-- The bytes of a frame reach unit D in order (42_frame_decoder.md R155). -/
def receiveFrame (cmd len : Byte) (crc : Half) (payload : List Byte) (s : State) : State :=
  { s with d := receiveAll s.params.maxPayload (frameWire cmd len crc payload) s.d }

/-! ### Writing a frame -/

/-- E.PUSH of each payload byte in order (44_link_protocol.md R181). -/
def pushAll (maxPayload : Byte) (payload : List Byte) (e : UnitE) : UnitE :=
  payload.foldl (fun e d => pushE maxPayload d e) e

/-- `n` E.POP in a row. -/
def popTimes : Nat → State → State
  | 0, s => s
  | n + 1, s => popTimes n (popByte s)

/-- "repeat E.POP until last = 1": the whole frame, `4 + e_len` bytes (44_link_protocol.md R181, R182; log 20). -/
def popFrame (s : State) : State := popTimes (4 + s.e.len.toNat) s

/-- The result a job returns when its SEND fails (44_link_protocol.md R181, R184, R186). A BOOT whose UPLOAD fails returns
UPLOAD's failure: DESIGN CHOICE (log 27). -/
def failedResult (job : Job) (why : SendFailure) : JobResult :=
  match job with
  | .send => .sendFailed why
  | .chunk _ cur pos _ _ => .uploadFailed why cur pos
  | .jump => .jumpFailed why

/-- The producer has a result and no pseudo-operation in progress. -/
def finish (r : JobResult) (s : State) : State := { s with producer := { job := none, result := some r } }

/-- The first half of `SEND (cmd, payload)`: E.BEGIN, the pushes, E.END; where the frame is rejected the job fails and
nothing is sent; else the whole frame is written and its reply awaited (44_link_protocol.md R181). -/
def writeFrame (cmd : Byte) (payload : List Byte) (job : Job) (s : State) : State :=
  let filled := { s with e := pushAll s.params.maxPayload payload (beginE cmd s.e) }
  let ended := endFrame filled
  if filled.e.ovf then finish (failedResult job .oversized) ended
  else popFrame { ended with producer := { ended.producer with job := some job } }

/-! ### UPLOAD and BOOT -/

/-- The head of UPLOAD's loop (44_link_protocol.md R184): the next chunk as a LOAD frame, or, after the last one, the
result of UPLOAD or the JUMP frame of BOOT (R186). -/
def nextChunk (image : List Byte) (cur : Addr) (pos : Nat) (entry : Option Addr) (s : State) : State :=
  if pos < image.length then
    let k := chunkSize s.params.maxPayload image pos
    writeFrame cmdLoad (chunkPayload cur image pos k) (.chunk image cur pos k entry) s
  else
    match entry with
    | none => finish (.uploadOk image.length) s
    | some entry => writeFrame cmdJump (be32 entry) .jump s

/-- After a Success reply (44_link_protocol.md R181, R185, R186). That a BOOT then returns `bootOk`, without the bytes its
UPLOAD sent, is the model's: DESIGN CHOICE (log 27). -/
def jobSucceeded (job : Job) (s : State) : State :=
  match job with
  | .send => finish .sendOk s
  | .chunk image cur pos k entry => nextChunk image (nextAddress cur k (Config.freeAddr s.tick)) (pos + k) entry s
  | .jump => finish .bootOk s

/-- The second half of SEND, by the decoded reply (44_link_protocol.md R181): Success and the failures release the
frame, CrcError re-sends the identical one and goes on waiting. -/
def handleReply (r : Reply) (job : Job) (s : State) : State :=
  match r with
  | .success => jobSucceeded job { s with e := releaseE s.e }
  | .crcError => popFrame { s with e := resendE s.e }
  | .unknown => finish (failedResult job .unknown) { s with e := releaseE s.e }
  | .error => finish (failedResult job .error) { s with e := releaseE s.e }

/-- A reply read returns `read` to the producer: unit R presents its value, in every state (43_reply_codec.md R173), and a
pseudo-operation that waits for it goes on. Where unit E holds no frame, as after a reset in the middle of a SEND, the
E.RELEASE or E.RESEND that follows the read is not enabled and the producer waits (00_scope.md R13, 44_link_protocol.md R181,
log 22). -/
def replyArrives (read : List Byte) (s : State) : State :=
  let s' := s.emit (.decoded (replyDecode read))
  match s.producer.job with
  | none => s'
  | some job => if heldEnabled s.e then handleReply (replyDecode read) job s' else s'

end Sys2Proof.Machine
end

