-- ==== Sys2Proof/Machine/Agents.lean ====
section
/-! DEFINITION. Whose turn it is and what that agent does with it: the outside's next event, the link, the executor, the
reply wires, and reset (00_scope.md R3, R13, R14; 44_link_protocol.md R180, R189; 70_reset_and_hazards.md R230). -/

namespace Sys2Proof.Machine

/-- The move of this turn: the first of `moves`, or a free value where there is none (log 7). -/
def State.move (s : State) : Move := s.moves.headD (Config.freeMove s.tick)

/-- The turn is used up. -/
def State.takeTurn (s : State) : State := { s with moves := s.moves.tail, tick := s.tick + 1 }

/-- An agent wants the event `i`, after which what it took is gone (`taken`). Where `i` is not enabled it does not
occur and the agent waits (`waiting`) (00_scope.md R13). -/
def offer (i : Instr) (taken waiting : State) : Turn :=
  if enabled i waiting then .run i taken else .quiet waiting

/-- The bytes of the first stimulus at a port. -/
def stimulusAt (port : Port) : List Stimulus → Option (List Byte)
  | [] => none
  | st :: later => if st.port = port then some st.bytes else stimulusAt port later

/-- The agenda when the first stimulus at a port has given up an event and kept `left`. -/
def agendaAfter (port : Port) (left : List Byte) : List Stimulus → List Stimulus
  | [] => []
  | st :: later =>
    if st.port = port then (if left.isEmpty then later else { port := port, bytes := left } :: later)
    else st :: agendaAfter port left later

/-- Whether the outside drives a port now. Each port has one driver (60_exceptions.md R213), so that two drivers of one
port have no run (U14, log 9): D.RX, D.TX and reads of replies are the link's, D.DONE is the executor's, unless the outside
stands for them; the outside is the producer, whose own events at unit E wait while its SEND, UPLOAD or BOOT is in progress
(44_link_protocol.md R182); R.DEC is always enabled (43_reply_codec.md R173). -/
def outsideDrives (port : Port) (s : State) : Bool :=
  match port with
  | .frame => s.params.drivers.link == .outside
  | .reply => s.params.drivers.link == .outside
  | .cClr => true
  | .cUpd => true
  | .cVal => true
  | .eBegin => s.producer.job.isNone
  | .ePush => s.producer.job.isNone
  | .eEnd => s.producer.job.isNone
  | .ePop => s.producer.job.isNone
  | .eResend => s.producer.job.isNone
  | .eRelease => s.producer.job.isNone
  | .dRx => s.params.drivers.link == .outside
  | .dDone => s.params.drivers.executor == .outside
  | .dTx => s.params.drivers.link == .outside
  | .rDec => true
  | .send => s.producer.job.isNone
  | .upload => s.producer.job.isNone
  | .boot => s.producer.job.isNone

/-- The outside's turn at a port: the bytes of its first stimulus there are decoded and the event is offered. A stimulus
waits, and nothing occurs, where its bytes are no event of the port (log 10), where another agent drives the port (log 9),
and where the event is not enabled (U10). Stimuli at other ports are not held back (20_memory.md R63, log 7). -/
def outsideTurn (port : Port) (s : State) : Turn :=
  match stimulusAt port s.agenda with
  | none => .quiet s
  | some bytes =>
    match decode port bytes with
    | .error _ => .quiet s
    | .ok (i, left) =>
      if outsideDrives port s then offer i { s with agenda := agendaAfter port left s.agenda } s else .quiet s

/-- Bytes in flight towards unit D. -/
def State.withFwd (s : State) (bytes : List Byte) : State := { s with link := { s.link with fwd := bytes } }

/-- Bytes in flight towards the producer. -/
def State.withBack (s : State) (bytes : List Byte) : State := { s with link := { s.link with back := bytes } }

/-- The link's turn towards unit D: a delivery is a D.RX; loss, duplication and insertion only under `any`
(44_link_protocol.md R180, U11). -/
def linkTurn (act : LinkAct) (s : State) : Turn :=
  match act, s.link.fwd, s.params.linkFaults with
  | .deliver mask, b :: rest, _ => offer (.dRx (b ^^^ mask)) (s.withFwd rest) s
  | .lose, _ :: rest, .any => .quiet (s.withFwd rest)
  | .duplicate mask, b :: _, .any => offer (.dRx (b ^^^ mask)) s s
  | .insert b, _, .any => offer (.dRx b) s s
  | _, _, _ => .quiet s

/-- The producer's read of one reply byte, the input of R.DEC (44_link_protocol.md R180; 43_reply_codec.md R173): the reply
of its SEND, UPLOAD or BOOT, or, for a producer that uses the events of unit E one by one, R.DEC alone. -/
def readReply (b : Byte) (s : State) : Instr := if s.producer.job.isSome then decodeReply [b] else .rDec [b]

/-- The link's turn towards the producer: a delivery is a reply read of one byte (43_reply_codec.md R173). -/
def replyTurn (act : LinkAct) (s : State) : Turn :=
  match act, s.link.back, s.params.linkFaults with
  | .deliver mask, b :: rest, _ => offer (readReply (b ^^^ mask) s) (s.withBack rest) s
  | .lose, _ :: rest, .any => .quiet (s.withBack rest)
  | .duplicate mask, b :: _, .any => offer (readReply (b ^^^ mask) s) s s
  | .insert b, _, .any => offer (readReply b s) s s
  | _, _, _ => .quiet s

/-- The turn of the environment's own agent at ports of a driver: quiet where the outside stands for that agent
(60_exceptions.md R213, log 9). -/
def agentTurn (driver : Driver) (turn : Turn) (s : State) : Turn :=
  match driver with
  | .agent => turn
  | .outside => .quiet s

/-- The target when unit D is reset: a command at the executor is abandoned, and how much of it was done is as little known
as when it failed. The spec says nothing of it: DESIGN CHOICE (log 25). -/
def abandonCommand (s : State) : Target :=
  if s.d.state = .exec then carryOut (commandOf s.d) false s.tick s.target else s.target

/-- Reset of units C, E and D together: `c_acc`, `e_state` and `d_state` get their reset values, every other register a free
one (70_reset_and_hazards.md R230, U9, log 11). The constants and the rest of what is outside the block stay (R232, R233). The
one block's unit E feeds its own unit D, so no far end stays in mid-frame: DESIGN CHOICE (log 26). -/
def blockReset (s : State) : State :=
  let buffer (offset : Nat) : List Byte :=
    (List.range s.params.maxPayload.toNat).map (fun i => Config.resetByte s.tick (offset + i))
  { s with
    c := { acc := 0x0000#16 }
    e := { state := .idle, cmd := Config.resetByte s.tick 0, len := Config.resetByte s.tick 1, buf := buffer 16,
           acc := Config.resetHalf s.tick 0, ovf := Config.resetFlag s.tick, idx := Config.resetIdx s.tick }
    d := { state := .len, len := Config.resetByte s.tick 2, crc := Config.resetHalf s.tick 1,
           cmd := Config.resetByte s.tick 3, cnt := Config.resetByte s.tick 4, buf := buffer 512,
           acc := Config.resetHalf s.tick 2, verdict := Config.resetVerdict s.tick,
           reply := Config.resetByte s.tick 5 }
    target := abandonCommand s }

/-- What one turn comes to. -/
def turnOf (s : State) : Turn :=
  match s.move with
  | .outside port => outsideTurn port s.takeTurn
  | .link act => agentTurn s.params.drivers.link (linkTurn act s.takeTurn) s.takeTurn
  | .executor ok => agentTurn s.params.drivers.executor (offer (.dDone ok) s.takeTurn s.takeTurn) s.takeTurn
  | .replyOut => agentTurn s.params.drivers.link (offer .dTx s.takeTurn s.takeTurn) s.takeTurn
  | .producer act => agentTurn s.params.drivers.link (replyTurn act s.takeTurn) s.takeTurn
  | .reset => .quiet (blockReset s.takeTurn)

/-- The outside stands for the link, so that it drives the ports the words of opcode_table.json come to (log 7). -/
def linkFromOutside (p : Params) : Params := { p with drivers := { p.drivers with link := .outside } }

/-- The next turn is the outside's at this port, these bytes are its first there, and it stands for the link (log 7). -/
def placeStimulus (s : State) (p : Port) (bytes : List Byte) : State :=
  { s with
    params := linkFromOutside s.params
    agenda := { port := p, bytes := bytes } :: s.agenda
    moves := .outside p :: s.moves }

/-- A word of opcode_table.json placed as the outside's next event; a word that names no row is placed nowhere. -/
def placeTableWord (s : State) (nbits w : Nat) : State :=
  match tableStimulus nbits w with
  | some (p, bytes) => placeStimulus s p bytes
  | none => s

end Sys2Proof.Machine
end

