-- ==== Sys2Proof/Machine/Frames.lean ====
section
/-! DEFINITION. The FRAME rows: a whole frame reaches unit D at a frame boundary (42_frame_decoder.md R155, R158 to
R161). -/

namespace Sys2Proof.Machine

/-- ABORT (42_frame_decoder.md R158): accepted with any legal LEN, its payload ignored. -/
def execAbort (len : Byte) (crc : Half) (payload : List Byte) (s : State) : Host.Outcome State Fault Refusal :=
  occurs (frameEnabled s.d) (receiveFrame cmdAbort len crc payload s) s

/-- LOAD (42_frame_decoder.md R159): accepted with LEN at least 4; hands over `addr` and `data`. -/
def execLoad (len : Byte) (crc : Half) (payload : List Byte) (s : State) : Host.Outcome State Fault Refusal :=
  occurs (frameEnabled s.d) (receiveFrame cmdLoad len crc payload s) s

/-- JUMP (42_frame_decoder.md R160): accepted with LEN 4; hands over `addr`. -/
def execJump (len : Byte) (crc : Half) (payload : List Byte) (s : State) : Host.Outcome State Fault Refusal :=
  occurs (frameEnabled s.d) (receiveFrame cmdJump len crc payload s) s

/-- RESERVED_CMD (42_frame_decoder.md R161): never accepted. -/
def execReservedCmd (cmd len : Byte) (crc : Half) (payload : List Byte) (s : State) :
    Host.Outcome State Fault Refusal :=
  occurs (frameEnabled s.d) (receiveFrame cmd len crc payload s) s

end Sys2Proof.Machine
end

