-- ==== Sys2Proof/Machine/Pseudo.lean ====
section
/-! DEFINITION. The pseudo-operations of the environment (44_link_protocol.md R181, R184, R186): each runs to its first
wait for a reply; the REPLY rows carry it on. -/

namespace Sys2Proof.Machine

/-- SEND (cmd, payload) (44_link_protocol.md R181). -/
def execSend (cmd : Byte) (payload : List Byte) (s : State) : Host.Outcome State Fault Refusal :=
  occurs (sendEnabled cmd s) (writeFrame cmd payload .send s) s

/-- UPLOAD base, image (44_link_protocol.md R184). -/
def execUpload (base : Addr) (image : List Byte) (s : State) : Host.Outcome State Fault Refusal :=
  occurs (uploadEnabled image s) (nextChunk image base 0 none s) s

/-- BOOT base, image, entry (44_link_protocol.md R186). -/
def execBoot (base entry : Addr) (image : List Byte) (s : State) : Host.Outcome State Fault Refusal :=
  occurs (bootEnabled s) (nextChunk image base 0 (some entry) s) s

end Sys2Proof.Machine
end

