-- ==== Sys2Proof/Machine/Replies.lean ====
section
/-! DEFINITION. The REPLY rows: what one reply read returns to the producer, in every state (43_reply_codec.md R172, R173,
R176 to R179; 44_link_protocol.md R181). -/

namespace Sys2Proof.Machine

/-- RPL_K: Success (43_reply_codec.md R176). -/
def execRplK (s : State) : Host.Outcome State Fault Refusal := .next (replyArrives [replyK] s)

/-- RPL_C: CrcError, the retry signal (43_reply_codec.md R177). -/
def execRplC (s : State) : Host.Outcome State Fault Refusal := .next (replyArrives [replyC] s)

/-- RPL_U: Unknown (43_reply_codec.md R178). -/
def execRplU (s : State) : Host.Outcome State Fault Refusal := .next (replyArrives [replyU] s)

/-- RPL_E: Error (43_reply_codec.md R179). -/
def execRplE (s : State) : Host.Outcome State Fault Refusal := .next (replyArrives [replyE] s)

/-- RPL_OTHER: any other content, Unknown (43_reply_codec.md R172, R174). -/
def execRplOther (read : List Byte) (s : State) : Host.Outcome State Fault Refusal :=
  .next (replyArrives read s)

end Sys2Proof.Machine
end

