-- ==== Sys2Proof/Machine/UnitC.lean ====
section
/-! DEFINITION. The events of unit C (40_crc16.md R106 to R108), always enabled. -/

namespace Sys2Proof.Machine

/-- C.CLR (40_crc16.md R106). -/
def execCClr (s : State) : Host.Outcome State Fault Refusal := .next { s with c := clearC s.c }

/-- C.UPD d (40_crc16.md R107). -/
def execCUpd (d : Byte) (s : State) : Host.Outcome State Fault Refusal := .next { s with c := updateC d s.c }

/-- C.VAL (40_crc16.md R108): the accumulator is presented, nothing else changes. -/
def execCVal (s : State) : Host.Outcome State Fault Refusal := .next (s.emit (.crc s.c.acc))

end Sys2Proof.Machine
end

