-- ==== Sys2Proof/Machine/UnitD.lean ====
section
/-! DEFINITION. The events of unit D (42_frame_decoder.md R142 to R153). -/

namespace Sys2Proof.Machine

/-- D.RX b (42_frame_decoder.md R142). -/
def execDRx (b : Byte) (s : State) : Host.Outcome State Fault Refusal :=
  occurs (rxEnabled s.d) { s with d := receiveD s.params.maxPayload b s.d } s

/-- D.DONE ok (42_frame_decoder.md R152): the reply of the accepted command; with it the executor has acted on the
target as its report says (44_link_protocol.md R189, log 23). -/
def execDDone (ok : Bool) (s : State) : Host.Outcome State Fault Refusal :=
  occurs (doneEnabled s.d)
    { s with d := doneD ok s.d, target := carryOut (commandOf s.d) ok s.tick s.target } s

/-- D.TX (42_frame_decoder.md R153). -/
def execDTx (s : State) : Host.Outcome State Fault Refusal := occurs (txEnabled s.d) (transmitReply s) s

end Sys2Proof.Machine
end

