-- ==== Sys2Proof/Machine/UnitE.lean ====
section
/-! DEFINITION. The events of unit E (41_frame_encoder.md R122 to R127). -/

namespace Sys2Proof.Machine

/-- E.BEGIN cmd (41_frame_encoder.md R122). -/
def execEBegin (cmd : Byte) (s : State) : Host.Outcome State Fault Refusal :=
  occurs (beginEnabled cmd s.e) { s with e := beginE cmd s.e } s

/-- E.PUSH d (41_frame_encoder.md R123). -/
def execEPush (d : Byte) (s : State) : Host.Outcome State Fault Refusal :=
  occurs (fillEnabled s.e) { s with e := pushE s.params.maxPayload d s.e } s

/-- E.END (41_frame_encoder.md R124). -/
def execEEnd (s : State) : Host.Outcome State Fault Refusal := occurs (fillEnabled s.e) (endFrame s) s

/-- E.POP (41_frame_encoder.md R125). -/
def execEPop (s : State) : Host.Outcome State Fault Refusal := occurs (popEnabled s.e) (popByte s) s

/-- E.RESEND (41_frame_encoder.md R126). -/
def execEResend (s : State) : Host.Outcome State Fault Refusal :=
  occurs (heldEnabled s.e) { s with e := resendE s.e } s

/-- E.RELEASE (41_frame_encoder.md R127). -/
def execERelease (s : State) : Host.Outcome State Fault Refusal :=
  occurs (heldEnabled s.e) { s with e := releaseE s.e } s

end Sys2Proof.Machine
end

