-- ==== Sys2Proof/Machine/UnitR.lean ====
section
/-! DEFINITION. The one operation of unit R, which has no state (43_reply_codec.md R173). -/

namespace Sys2Proof.Machine

/-- R.DEC s (43_reply_codec.md R173). -/
def execRDec (read : List Byte) (s : State) : Host.Outcome State Fault Refusal :=
  .next (s.emit (.decoded (replyDecode read)))

end Sys2Proof.Machine
end

