-- ==== Sys2Proof/Machine/Dispatch.lean ====
section
/-! DEFINITION. The meaning of each instruction, one arm each. -/

namespace Sys2Proof.Machine

def exec (i : Instr) (s : State) : Host.Outcome State Fault Refusal :=
  match i with
  | .abort len crc payload => Sys2Proof.Machine.execAbort len crc payload s
  | .load len crc payload => Sys2Proof.Machine.execLoad len crc payload s
  | .jump len crc payload => Sys2Proof.Machine.execJump len crc payload s
  | .reservedCmd cmd len crc payload => Sys2Proof.Machine.execReservedCmd cmd len crc payload s
  | .rplK => Sys2Proof.Machine.execRplK s
  | .rplC => Sys2Proof.Machine.execRplC s
  | .rplU => Sys2Proof.Machine.execRplU s
  | .rplE => Sys2Proof.Machine.execRplE s
  | .rplOther read => Sys2Proof.Machine.execRplOther read s
  | .cClr => Sys2Proof.Machine.execCClr s
  | .cUpd d => Sys2Proof.Machine.execCUpd d s
  | .cVal => Sys2Proof.Machine.execCVal s
  | .eBegin cmd => Sys2Proof.Machine.execEBegin cmd s
  | .ePush d => Sys2Proof.Machine.execEPush d s
  | .eEnd => Sys2Proof.Machine.execEEnd s
  | .ePop => Sys2Proof.Machine.execEPop s
  | .eResend => Sys2Proof.Machine.execEResend s
  | .eRelease => Sys2Proof.Machine.execERelease s
  | .dRx b => Sys2Proof.Machine.execDRx b s
  | .dDone ok => Sys2Proof.Machine.execDDone ok s
  | .dTx => Sys2Proof.Machine.execDTx s
  | .rDec read => Sys2Proof.Machine.execRDec read s
  | .send cmd payload => Sys2Proof.Machine.execSend cmd payload s
  | .upload base image => Sys2Proof.Machine.execUpload base image s
  | .boot base entry image => Sys2Proof.Machine.execBoot base entry image s

end Sys2Proof.Machine
end

