-- ==== Sys2Proof/Machine/Step.lean ====
section
/-! DEFINITION. One step: one turn of one agent. -/

namespace Sys2Proof.Machine

/-- One turn: the event it comes to is executed; where none occurs the state is what the turn left. -/
def step (s : State) : Host.Outcome State Fault Refusal :=
  match turnOf s with
  | .quiet t => .next t
  | .run i t => exec i t

/-- `s` with the instruction of a word of opcode_table.json placed where the next step takes it. -/
def State.withFetchWord (s : State) (nbits w : Nat) : State := placeTableWord s nbits w

end Sys2Proof.Machine
end

