-- ==== Sys2Proof/Safety.lean ====
section
/-! DEFINITION. The terms the claims use: runs of instructions, and the invariant every step keeps. -/

namespace Sys2Proof.Machine

/-- Instructions executed one after another, stopping where one gives no next state. -/
def execAll : List Instr → State → Host.Outcome State Fault Refusal
  | [], s => .next s
  | i :: is, s =>
    match exec i s with
    | .next t => execAll is t
    | .fault r => .fault r
    | .refused r => .refused r

/-- The message bytes that C.UPD events among a list of events bring (40_crc16.md R111). -/
def messageOf : List Instr → List Byte
  | [] => []
  | .cUpd d :: is => d :: messageOf is
  | _ :: is => messageOf is

/-- Bit `p` of a message, counted from the most significant bit of its first byte, the order in which the checksum takes
them (20_memory.md R52); 0 behind its end. -/
def messageBit (message : List Byte) (p : Nat) : Bool := (message.getD (p / 8) 0#8).getLsbD (7 - p % 8)

/-- What the output port of E.POP has presented after a whole frame: its bytes in order, `last` with the last of them
(41_frame_encoder.md R125, R128). -/
def wireOutputs (bytes : List Byte) : List Output :=
  bytes.mapIdx (fun k b => .wire b (k + 1 == bytes.length))

/-- The frame unit E holds is well described by its registers: `e_cmd` a command, `e_len` within the cap, `e_acc` the
checksum of the command byte and the stored payload (10_state.md R22, R23, R25). -/
def UnitE.holdsFrame (maxPayload : Byte) (e : UnitE) : Prop :=
  isCommand e.cmd = true ∧ e.len.toNat ≤ maxPayload.toNat ∧ e.acc = crc16 (e.cmd :: e.payload)

/-- What is true of unit E in every reachable state (10_state.md R22 to R27, R40). -/
structure UnitE.Inv (maxPayload : Byte) (e : UnitE) : Prop where
  depth : e.buf.length = maxPayload.toNat
  filling : e.state = .fill → e.holdsFrame maxPayload ∧ (e.ovf = true → e.len = maxPayload)
  sending : e.state = .send → e.holdsFrame maxPayload ∧ e.idx.toNat ≤ 3 + e.len.toNat
  held : e.state = .done → e.holdsFrame maxPayload ∧ e.idx.toNat = 4 + e.len.toNat

/-- What is true of unit D in every reachable state (10_state.md R32 to R36, R40; 42_frame_decoder.md R154). -/
structure UnitD.Inv (maxPayload : Byte) (d : UnitD) : Prop where
  depth : d.buf.length = maxPayload.toNat
  header : d.state = .crcH ∨ d.state = .crcL ∨ d.state = .cmd → d.cnt = 0#8
  payload : d.state = .pay → d.cnt.toNat < d.len.toNat ∧
    (d.cnt.toNat ≤ maxPayload.toNat → d.acc = crc16 (d.cmd :: d.buf.take d.cnt.toNat))
  accepted : d.state = .exec → d.verdict = .accept ∧ d.acc = d.crc ∧ d.acc = crc16 (d.cmd :: d.payload) ∧
    d.len.toNat ≤ maxPayload.toNat ∧ d.cnt = d.len ∧ isCommand d.cmd = true ∧
    (d.cmd = cmdLoad → 4 ≤ d.len.toNat) ∧ (d.cmd = cmdJump → d.len = 4#8)
  replying : d.state = .rply → d.reply = replyEncode d.verdict true ∨ d.reply = replyEncode d.verdict false

/-- The invariant: units E and D as above, and the target's memory in canonical form. -/
structure State.Inv (s : State) : Prop where
  encoder : s.e.Inv s.params.maxPayload
  decoder : s.d.Inv s.params.maxPayload
  memory : s.target.mem.wf = true

end Sys2Proof.Machine
end

