-- ==== Sys2Proof/Certificates/Slice0/Obligations.lean ====
section
/-! DEFINITION. The statements for the provers. Each docstring names the rules of spec/ it states; where a statement rests on
an inference of the spec or on a choice of the model it says so. `exec` answers a next state in every one of them, so a
statement that gives that state says all that the instruction leaves unchanged. -/

open Sys2Proof Sys2Proof.Machine

/-! ### Encoding -/

/-- Decoding the bytes of a well-formed instruction at its port gives it back (30_encoding.md R70, R71, R85, R86). At
the ports that carry a byte stream the bytes behind it are left. The bytes of the pseudo-operations are the model's own
(log 18). -/
def Obligations.DecodeReadsBackEncode : Prop :=
  ∀ i : Instr, i.wf = true →
    decode i.port (encode i) = .ok (i, []) ∧
    (i.port ∈ [Port.frame, Port.cUpd, Port.eBegin, Port.ePush, Port.dRx, Port.dDone] →
      ∀ later : List Byte, decode i.port (encode i ++ later) = .ok (i, later))

/-- Words written out from the spec's encodings decode to the rows they stand for (30_encoding.md R71, R74, R78, R79; the
headers of V20, V22 and V52). That a 32-bit word is read as a header with payload bytes zero is the model's choice
(log 7). -/
def Obligations.SpecWordsDecode : Prop :=
  decodeTableWord 32 0x00000000 = some (.abort 0x00#8 0x0000#16 []) ∧
  decodeTableWord 32 0x042A1F02 = some (.jump 0x04#8 0x2A1F#16 [0#8, 0#8, 0#8, 0#8]) ∧
  decodeTableWord 32 0x00306303 = some (.reservedCmd 0x03#8 0x00#8 0x3063#16 []) ∧
  decodeTableWord 8 0x4B = some .rplK ∧ decodeTableWord 8 0x43 = some .rplC ∧
  decodeTableWord 8 0x55 = some .rplU ∧ decodeTableWord 8 0x45 = some .rplE ∧
  decodeTableWord 8 0x6B = some (.rplOther [0x6B#8])

/-- `parse_frame` has a value exactly when `4 + LEN` bytes are there, LEN being the first byte; it is then the record of
R141, its fields read from their byte positions, and the decoder gives the frame's instruction with those fields
(42_frame_decoder.md R141, 30_encoding.md R83). That the decoder names an incomplete frame as such, where R141 has the unit
wait for more bytes, is the model's choice (log 10). -/
def Obligations.FrameNeedsFourPlusLenBytes : Prop :=
  ∀ maxPayload : Byte,
    (∀ bytes : List Byte, (∃ f, parseFrame maxPayload bytes = some f) ↔
      ∃ len tail, bytes = len :: tail ∧ 4 + len.toNat ≤ bytes.length) ∧
    (∀ (len hi lo cmd : Byte) (payload rest : List Byte), payload.length = len.toNat →
      parseFrame maxPayload (len :: hi :: lo :: cmd :: (payload ++ rest)) =
        some { len := len, crcRx := hi ++ lo, cmd := cmd, payload := payload, acc := crc16 (cmd :: payload),
               verdict := verdictOf maxPayload len (hi ++ lo) cmd (crc16 (cmd :: payload)), rest := rest } ∧
      decode .frame (len :: hi :: lo :: cmd :: (payload ++ rest)) = .ok (frameInstr cmd len (hi ++ lo) payload, rest)) ∧
    (∀ bytes : List Byte, parseFrame maxPayload bytes = none → decode .frame bytes = .error .incompleteFrame)

/-- `encode(cmd, payload)`: length `4 + n`, first byte `n`, then the checksum of CMD and PAYLOAD big-endian, then CMD,
then PAYLOAD (41_frame_encoder.md R120, 30_encoding.md R90; the source's test S1). R120 says so of a command byte 0x00 to 0x02
and a payload within the cap; the rest of the range is the model's choice (log 24). -/
def Obligations.EncodeLaysOutTheFrame : Prop :=
  ∀ (cmd : Byte) (payload : List Byte), payload.length ≤ 255 →
    (encodeFrame cmd payload).length = 4 + payload.length ∧
    (∃ len hi lo, encodeFrame cmd payload = len :: hi :: lo :: cmd :: payload ∧ len.toNat = payload.length ∧
      hi ++ lo = crc16 (cmd :: payload))

/-! ### The checksum -/

/-- The bit-serial form of the byte step (40_crc16.md R102, marked derived there). -/
def Obligations.CrcStepIsBitSerial : Prop :=
  ∀ (acc : Half) (d : Byte), crcStep acc d = crcStepSerial acc d

/-- The parallel form of the byte step, bit by bit (40_crc16.md R103, marked derived there). -/
def Obligations.CrcStepIsParallel : Prop :=
  ∀ (acc : Half) (d : Byte) (i : Nat), i < 16 → (crcStep acc d).getLsbD i = crcParallelBit acc d i

/-- The byte step is linear over exclusive or (40_crc16.md R110 (b), marked derived there). -/
def Obligations.CrcStepIsLinear : Prop :=
  ∀ (a b : Half) (d e : Byte), crcStep (a ^^^ b) (d ^^^ e) = crcStep a d ^^^ crcStep b e

/-- Leading zeros are invisible, and the checksum of one byte is its table entry (40_crc16.md R110 (c), (e), marked
derived there). -/
def Obligations.CrcIgnoresLeadingZeros : Prop :=
  (∀ (n : Nat) (s : List Byte), crc16 (List.replicate n 0x00#8 ++ s) = crc16 s) ∧
  (∀ d : Byte, crc16 [d] = crcTable d)

/-- The residue of a message followed by its own checksum is 0 (40_crc16.md R110 (d), marked derived there). -/
def Obligations.CrcResidueIsZero : Prop :=
  ∀ s : List Byte, crc16 (s ++ be16 (crc16 s)) = 0x0000#16

/-- Any single changed bit, and any burst of changed bits no longer than 16 bits, changes the checksum of a message,
wherever it lies in it and whatever the message's length: two messages of one length that differ, and differ only within 16
consecutive bit positions, have different checksums (40_crc16.md R110 (f), which the spec marks as general knowledge). -/
def Obligations.CrcDetectsShortBursts : Prop :=
  ∀ (sent received : List Byte) (first : Nat), sent.length = received.length → sent ≠ received →
    (∀ p, messageBit sent p ≠ messageBit received p → first ≤ p ∧ p < first + 16) →
    crc16 sent ≠ crc16 received

/-! ### Unit C -/

/-- C.CLR (40_crc16.md R106). -/
def Obligations.CClrClearsAccumulator : Prop :=
  ∀ s : State, exec .cClr s = .next { s with c := { acc := 0x0000#16 } }

/-- C.UPD d, with the table form of the byte step written out (40_crc16.md R107, R100). -/
def Obligations.CUpdTakesOneByte : Prop :=
  ∀ (d : Byte) (s : State), exec (.cUpd d) s =
    .next { s with c := { acc := crcTable (s.c.acc.extractLsb' 8 8 ^^^ d) ^^^ (s.c.acc <<< 8) } }

/-- C.VAL (40_crc16.md R108). -/
def Obligations.CValPresentsAccumulator : Prop :=
  ∀ s : State, exec .cVal s = .next { s with ports := s.ports ++ [.crc s.c.acc] }

/-- After C.CLR, C.UPD of a message's bytes with C.VAL anywhere among them, the accumulator is the checksum of the
message, and nothing but the accumulator and the presented values has changed (40_crc16.md R111, marked derived
there). -/
def Obligations.UnitCComputesCrc16 : Prop :=
  ∀ (s : State) (events : List Instr), (∀ i ∈ events, i = .cVal ∨ ∃ d, i = .cUpd d) →
    ∃ t, execAll (.cClr :: events) s = .next t ∧ t = { s with c := t.c, ports := t.ports } ∧
      t.c.acc = crc16 (messageOf events)

/-! ### Unit E -/

/-- E.BEGIN cmd (41_frame_encoder.md R122). Where it is not enabled: `DisabledEventsChangeNothing`. -/
def Obligations.EBeginOpensFrame : Prop :=
  ∀ (cmd : Byte) (s : State), s.e.state = .idle → (cmd = 0x00#8 ∨ cmd = 0x01#8 ∨ cmd = 0x02#8) →
    exec (.eBegin cmd) s = .next { s with
      e := { s.e with cmd := cmd, len := 0#8, ovf := false, acc := crcStep 0x0000#16 cmd, state := .fill } }

/-- E.PUSH d: stored below the cap, dropped with `e_ovf` set at it (41_frame_encoder.md R123). -/
def Obligations.EPushStoresOrOverflows : Prop :=
  ∀ (d : Byte) (s : State), s.e.state = .fill →
    exec (.ePush d) s = .next { s with e :=
      if s.e.len.toNat < s.params.maxPayload.toNat then
        { s.e with buf := s.e.buf.set s.e.len.toNat d, acc := crcStep s.e.acc d, len := s.e.len + 1#8 }
      else { s.e with ovf := true } }

/-- Payload bytes are stored in the order pushed: below the cap, E.PUSH appends its byte to the stored payload and
keeps the accumulator the checksum of what is stored (41_frame_encoder.md R123, 10_state.md R25). -/
def Obligations.EPushAppendsToPayload : Prop :=
  ∀ (d : Byte) (s : State), s.e.Inv s.params.maxPayload → s.e.state = .fill →
    s.e.len.toNat < s.params.maxPayload.toNat →
    ∃ t, exec (.ePush d) s = .next t ∧ t = { s with e := t.e } ∧
      t.e.payload = s.e.payload ++ [d] ∧ t.e.len.toNat = s.e.len.toNat + 1 ∧ t.e.state = .fill ∧
      t.e.cmd = s.e.cmd ∧ t.e.ovf = s.e.ovf ∧ t.e.acc = crc16 (s.e.cmd :: (s.e.payload ++ [d]))

/-- E.END: the reject, `EncOversize`, writes only `e_state`; the close makes byte 0 the next (41_frame_encoder.md R124,
60_exceptions.md R206). -/
def Obligations.EEndClosesOrRejects : Prop :=
  ∀ s : State, s.e.state = .fill →
    exec .eEnd s = .next (if s.e.ovf = true then
        { s with e := { s.e with state := .idle }, ports := s.ports ++ [.status .reject] }
      else { s with e := { s.e with idx := 0#9, state := .send }, ports := s.ports ++ [.status .ok] })

/-- E.POP in `E_SEND`: the wire byte at `e_idx` and `last` are presented and the byte is in flight, `e_idx` moves on by
one, and the last byte ends the emission (41_frame_encoder.md R125, 44_link_protocol.md R180). -/
def Obligations.EPopEmitsNextByte : Prop :=
  ∀ s : State, s.e.Inv s.params.maxPayload → s.e.state = .send →
    ∃ (b : Byte) (last : Bool),
      exec .ePop s = .next { s with
        e := { s.e with idx := s.e.idx + 1#9, state := if last then .done else .send }
        ports := s.ports ++ [.wire b last]
        link := { s.link with fwd := s.link.fwd ++ [b] } } ∧
      (last = true ↔ s.e.idx.toNat = 3 + s.e.len.toNat) ∧
      (s.e.idx = 0#9 → b = s.e.len) ∧
      (s.e.idx = 1#9 → b = s.e.acc.extractLsb' 8 8) ∧
      (s.e.idx = 2#9 → b = s.e.acc.extractLsb' 0 8) ∧
      (s.e.idx = 3#9 → b = s.e.cmd) ∧
      (4 ≤ s.e.idx.toNat → s.e.buf[s.e.idx.toNat - 4]? = some b)

/-- E.RESEND and E.RELEASE (41_frame_encoder.md R126, R127). -/
def Obligations.EResendAndERelease : Prop :=
  ∀ s : State, s.e.state = .done →
    exec .eResend s = .next { s with e := { s.e with idx := 0#9, state := .send } } ∧
    exec .eRelease s = .next { s with e := { s.e with state := .idle } }

/-- The events of unit E carry out `encode`: from `E_IDLE`, E.BEGIN, the pushes and E.END give `ENC_OK`, and `4 + n`
E.POP emit `encode(cmd, p)` in order with `last` on the last; the frame is then held (41_frame_encoder.md R128, marked
derived there). -/
def Obligations.EncoderEmitsEncode : Prop :=
  ∀ (cmd : Byte) (p : List Byte) (s : State),
    s.e.state = .idle → s.e.buf.length = s.params.maxPayload.toNat → isCommand cmd = true →
    p.length ≤ s.params.maxPayload.toNat →
    ∃ t, execAll (.eBegin cmd :: (p.map .ePush ++ .eEnd :: List.replicate (4 + p.length) .ePop)) s = .next t ∧
      t = { s with
        e := t.e
        ports := s.ports ++ .status .ok :: wireOutputs (encodeFrame cmd p)
        link := { s.link with fwd := s.link.fwd ++ encodeFrame cmd p } } ∧
      t.e.state = .done ∧ t.e.cmd = cmd ∧ t.e.payload = p

/-- A payload beyond the cap never reaches the wire: E.END gives `ENC_REJECT`, unit E is idle and no E.POP is enabled
(41_frame_encoder.md R121, R124, R128). -/
def Obligations.EncoderRejectsOversize : Prop :=
  ∀ (cmd : Byte) (p : List Byte) (s : State), s.e.state = .idle → isCommand cmd = true →
    s.params.maxPayload.toNat < p.length →
    ∃ t, execAll (.eBegin cmd :: (p.map .ePush ++ [.eEnd])) s = .next t ∧
      t = { s with e := t.e, ports := s.ports ++ [.status .reject] } ∧
      t.e.state = .idle ∧ enabled .ePop t = false

/-- A held frame can be emitted again: E.RESEND and `4 + e_len` E.POP emit the same bytes and leave unit E as it was
(41_frame_encoder.md R126). -/
def Obligations.ResendRepeatsTheFrame : Prop :=
  ∀ s : State, s.e.Inv s.params.maxPayload → s.e.state = .done →
    execAll (.eResend :: List.replicate (4 + s.e.len.toNat) .ePop) s =
      .next { s with
        ports := s.ports ++ wireOutputs (encodeFrame s.e.cmd s.e.payload)
        link := { s.link with fwd := s.link.fwd ++ encodeFrame s.e.cmd s.e.payload } }

/-- A frame being emitted or held cannot change: no instruction other than a reply to its sender writes `e_cmd`,
`e_len`, `e_buf` or `e_acc` (20_memory.md R65, 41_frame_encoder.md R131). -/
def Obligations.HeldFrameIsImmutable : Prop :=
  ∀ (i : Instr) (s t : State), s.e.state = .send ∨ s.e.state = .done → i.port ≠ .reply →
    exec i s = .next t →
    t.e.cmd = s.e.cmd ∧ t.e.len = s.e.len ∧ t.e.buf = s.e.buf ∧ t.e.acc = s.e.acc

/-! ### Unit D -/

/-- D.RX of LEN and of the two CRC bytes (42_frame_decoder.md R143, R144, R145). -/
def Obligations.DRxTakesLenAndCrc : Prop :=
  ∀ (b : Byte) (s : State),
    (s.d.state = .len → exec (.dRx b) s = .next { s with d := { s.d with len := b, cnt := 0#8, state := .crcH } }) ∧
    (s.d.state = .crcH →
      exec (.dRx b) s = .next { s with d := { s.d with crc := b ++ s.d.crc.extractLsb' 0 8, state := .crcL } }) ∧
    (s.d.state = .crcL →
      exec (.dRx b) s = .next { s with d := { s.d with crc := s.d.crc.extractLsb' 8 8 ++ b, state := .cmd } })

/-- D.RX of CMD and of a payload byte. `received` is unit D with that byte taken; if it was the frame's last, the verdict
is reached inside the same event: accepted, the command is with the executor; else the reply byte waits and nothing is
handed over (42_frame_decoder.md R146, R147, R148). -/
def Obligations.DRxTakesCommandAndPayload : Prop :=
  ∀ (b : Byte) (s : State) (received completed : UnitD) (v : Verdict),
    v = verdictOf s.params.maxPayload received.len received.crc received.cmd received.acc →
    completed = (if v = .accept then { received with verdict := .accept, state := .exec }
      else { received with
        verdict := v
        reply := if v = .crc then 0x43#8 else if v = .unknown then 0x55#8 else 0x45#8
        state := .rply }) →
    (s.d.state = .cmd → received = { s.d with cmd := b, acc := crcStep 0x0000#16 b } →
      exec (.dRx b) s =
        .next { s with d := if s.d.len = 0#8 then completed else { received with state := .pay } }) ∧
    (s.d.state = .pay → received = { s.d with
        buf := if s.d.cnt.toNat < s.params.maxPayload.toNat then s.d.buf.set s.d.cnt.toNat b else s.d.buf
        acc := crcStep s.d.acc b
        cnt := s.d.cnt + 1#8 } →
      exec (.dRx b) s =
        .next { s with d := if s.d.cnt.toNat + 1 = s.d.len.toNat then completed else received })

/-- The verdict is the first line of R150 whose condition holds, for every value of the parameter and of the operands
(42_frame_decoder.md R149, R150; 60_exceptions.md R205), and each verdict has its reply byte (43_reply_codec.md
R171). -/
def Obligations.VerdictIsFirstFailingCheck : Prop :=
  (∀ (maxPayload len : Byte) (crcRx : Half) (cmd : Byte) (acc : Half) (v : Verdict),
    v = verdictOf maxPayload len crcRx cmd acc →
    (acc ≠ crcRx → v = .crc) ∧
    (acc = crcRx → maxPayload.toNat < len.toNat → v = .oversize) ∧
    (acc = crcRx → len.toNat ≤ maxPayload.toNat → 0x02 < cmd.toNat → v = .unknown) ∧
    (acc = crcRx → len.toNat ≤ maxPayload.toNat → cmd = 0x01#8 → len.toNat < 4 → v = .format) ∧
    (acc = crcRx → len.toNat ≤ maxPayload.toNat → cmd = 0x02#8 → len ≠ 4#8 → v = .format) ∧
    (acc = crcRx → len.toNat ≤ maxPayload.toNat →
      (cmd = 0x00#8 ∨ (cmd = 0x01#8 ∧ 4 ≤ len.toNat) ∨ (cmd = 0x02#8 ∧ len = 4#8)) → v = .accept)) ∧
  (∀ ok : Bool, replyEncode .crc ok = 0x43#8 ∧ replyEncode .unknown ok = 0x55#8 ∧
    replyEncode .oversize ok = 0x45#8 ∧ replyEncode .format ok = 0x45#8 ∧
    replyEncode .accept ok = if ok then 0x4B#8 else 0x45#8)

/-- D.DONE ok: the reply byte and `D_RPLY`; unit D's other registers, `d_verdict` among them, and all else but the target
stay (42_frame_decoder.md R152, 60_exceptions.md R206). What the target is then: the next three statements. -/
def Obligations.DDoneSelectsReply : Prop :=
  ∀ (ok : Bool) (s : State), s.d.state = .exec →
    ∃ target, exec (.dDone ok) s = .next { s with
      d := { s.d with reply := if ok then 0x4B#8 else 0x45#8, state := .rply }
      target := target }

/-- A reported LOAD: data byte `i` is at `addr + i`, every other byte of the target's memory and its execution address
are as before (42_frame_decoder.md R159, 20_memory.md R60, 44_link_protocol.md R189 (c)). That the executor's effect shows at
D.DONE is the model's reading (log 23). -/
def Obligations.LoadReportStoresData : Prop :=
  ∀ (s : State) (addr : Nat) (data : List Byte), s.d.state = .exec → s.d.cmd = 0x01#8 →
    addr = (addrField s.d.payload).toNat → data = s.d.payload.drop 4 → addr + data.length ≤ 2 ^ 32 →
    ∃ t, exec (.dDone true) s = .next t ∧ t = { s with d := t.d, target := t.target } ∧
      t.target.pc = s.target.pc ∧
      (∀ k, k < data.length → Memory.read t.target.mem (addr + k) = data[k]?) ∧
      (∀ a, a < addr ∨ addr + data.length ≤ a → Memory.read t.target.mem a = Memory.read s.target.mem a)

/-- A LOAD whose execution failed: the reply is 'E' and `d_verdict` stays (42_frame_decoder.md R152, 60_exceptions.md R206).
That outside its own addresses the target's memory, and where the target executes, are as before is the model's reading: the
spec leaves to the executor how much a failed command did (43_reply_codec.md R175). It is DEDUCED and unsafe (log 14); so is that
the effect shows at D.DONE (log 23). -/
def Obligations.FailedLoadStaysWithinItsAddresses : Prop :=
  ∀ (s : State) (addr n : Nat), s.d.state = .exec → s.d.cmd = 0x01#8 →
    addr = (addrField s.d.payload).toNat → n = (s.d.payload.drop 4).length → addr + n ≤ 2 ^ 32 →
    ∃ t, exec (.dDone false) s = .next t ∧ t = { s with d := t.d, target := t.target } ∧
      t.d.reply = 0x45#8 ∧ t.d.verdict = s.d.verdict ∧ t.target.pc = s.target.pc ∧
      (∀ a, a < addr ∨ addr + n ≤ a → Memory.read t.target.mem a = Memory.read s.target.mem a)

/-- A JUMP reported done: the target executes from ADDR, its memory is as before. Reported failed: the reply is 'E' and the
target's memory is as before, where it executes is open (42_frame_decoder.md R160; that the effect shows at D.DONE is log 23,
that a failed JUMP touches no memory is log 14). -/
def Obligations.JumpReportStartsExecution : Prop :=
  ∀ s : State, s.d.state = .exec → s.d.cmd = 0x02#8 →
    exec (.dDone true) s = .next { s with
      d := { s.d with reply := 0x4B#8, state := .rply }
      target := { s.target with pc := some (addrField s.d.payload) } } ∧
    ∃ pc, exec (.dDone false) s = .next { s with
      d := { s.d with reply := 0x45#8, state := .rply }
      target := { s.target with pc := pc } }

/-- D.TX: the reply byte is presented and in flight, unit D expects a LEN byte, nothing is restored
(42_frame_decoder.md R153, 60_exceptions.md R207, 44_link_protocol.md R180). -/
def Obligations.DTxSendsReply : Prop :=
  ∀ s : State, s.d.state = .rply →
    exec .dTx s = .next { s with
      d := { s.d with state := .len }
      ports := s.ports ++ [.reply s.d.reply]
      link := { s.link with back := s.link.back ++ [s.d.reply] } }

/-- The events of unit D carry out `parse_frame`: after the last of the bytes of one whole frame its registers are the
fields of `parse_frame`, the buffer holds the payload as far as it is deep, and the command is with the executor or the
reply waits (42_frame_decoder.md R155, marked derived there). -/
def Obligations.DecoderComputesParseFrame : Prop :=
  ∀ (s : State) (bytes : List Byte) (f : ParsedFrame),
    s.d.state = .len → s.d.buf.length = s.params.maxPayload.toNat →
    parseFrame s.params.maxPayload bytes = some f → f.rest = [] →
    ∃ t, execAll (bytes.map .dRx) s = .next t ∧ t = { s with d := t.d } ∧
      t.d.len = f.len ∧ t.d.crc = f.crcRx ∧ t.d.cmd = f.cmd ∧ t.d.cnt = f.len ∧ t.d.acc = f.acc ∧
      t.d.verdict = f.verdict ∧
      t.d.buf.take (min f.len.toNat s.params.maxPayload.toNat) = f.payload.take s.params.maxPayload.toNat ∧
      (f.verdict = .accept → t.d.state = .exec) ∧
      (f.verdict ≠ .accept → t.d.state = .rply ∧ t.d.reply = replyEncode f.verdict false)

/-- A frame instruction is its bytes: at a frame boundary it does what D.RX of each of its bytes does
(42_frame_decoder.md R155; that a frame is taken whole is log 21). -/
def Obligations.FrameInstructionIsItsBytes : Prop :=
  ∀ (i : Instr) (s : State), i.port = .frame → i.wf = true → s.d.state = .len →
    exec i s = execAll ((encode i).map .dRx) s

/-- ABORT (42_frame_decoder.md R158, R150): any legal LEN is accepted; the executor can read command, LEN and payload
(R154) and has an Abort. That the frame is taken whole is the model's choice (log 21). -/
def Obligations.AbortFrameIsHandedOver : Prop :=
  ∀ (len : Byte) (crc : Half) (payload : List Byte) (s : State), s.d.state = .len →
    s.d.buf.length = s.params.maxPayload.toNat → payload.length = len.toNat →
    ∃ t, exec (.abort len crc payload) s = .next t ∧ t = { s with d := t.d } ∧
      if crc ≠ crc16 (0x00#8 :: payload) then
        t.d.state = .rply ∧ t.d.verdict = .crc ∧ t.d.reply = 0x43#8 ∧ executorView t.d = none
      else if s.params.maxPayload.toNat < len.toNat then
        t.d.state = .rply ∧ t.d.verdict = .oversize ∧ t.d.reply = 0x45#8 ∧ executorView t.d = none
      else t.d.state = .exec ∧ t.d.verdict = .accept ∧ commandOf t.d = .abort ∧
        executorView t.d = some { cmd := 0x00#8, len := len, buf := payload }

/-- LOAD (42_frame_decoder.md R159, R154, R150): hands over ADDR, payload byte 0 the most significant (30_encoding.md R85),
and the data, or is answered by the first failing check. That the frame is taken whole is the model's choice (log 21). -/
def Obligations.LoadFrameIsHandedOver : Prop :=
  ∀ (len : Byte) (crc : Half) (payload : List Byte) (s : State), s.d.state = .len →
    s.d.buf.length = s.params.maxPayload.toNat → payload.length = len.toNat →
    ∃ t, exec (.load len crc payload) s = .next t ∧ t = { s with d := t.d } ∧
      if crc ≠ crc16 (0x01#8 :: payload) then
        t.d.state = .rply ∧ t.d.verdict = .crc ∧ t.d.reply = 0x43#8 ∧ executorView t.d = none
      else if s.params.maxPayload.toNat < len.toNat then
        t.d.state = .rply ∧ t.d.verdict = .oversize ∧ t.d.reply = 0x45#8 ∧ executorView t.d = none
      else if len.toNat < 4 then
        t.d.state = .rply ∧ t.d.verdict = .format ∧ t.d.reply = 0x45#8 ∧ executorView t.d = none
      else t.d.state = .exec ∧ t.d.verdict = .accept ∧
        ∃ p0 p1 p2 p3 data, payload = p0 :: p1 :: p2 :: p3 :: data ∧
          commandOf t.d = .load (p0 ++ p1 ++ p2 ++ p3) data ∧
          executorView t.d = some { cmd := 0x01#8, len := len, buf := payload }

/-- JUMP (42_frame_decoder.md R160, R154, R150): hands over ADDR, payload byte 0 the most significant (30_encoding.md R85),
when LEN is exactly 4. That the frame is taken whole is the model's choice (log 21). -/
def Obligations.JumpFrameIsHandedOver : Prop :=
  ∀ (len : Byte) (crc : Half) (payload : List Byte) (s : State), s.d.state = .len →
    s.d.buf.length = s.params.maxPayload.toNat → payload.length = len.toNat →
    ∃ t, exec (.jump len crc payload) s = .next t ∧ t = { s with d := t.d } ∧
      if crc ≠ crc16 (0x02#8 :: payload) then
        t.d.state = .rply ∧ t.d.verdict = .crc ∧ t.d.reply = 0x43#8 ∧ executorView t.d = none
      else if s.params.maxPayload.toNat < len.toNat then
        t.d.state = .rply ∧ t.d.verdict = .oversize ∧ t.d.reply = 0x45#8 ∧ executorView t.d = none
      else if len ≠ 4#8 then
        t.d.state = .rply ∧ t.d.verdict = .format ∧ t.d.reply = 0x45#8 ∧ executorView t.d = none
      else t.d.state = .exec ∧ t.d.verdict = .accept ∧
        ∃ p0 p1 p2 p3, payload = [p0, p1, p2, p3] ∧ commandOf t.d = .jump (p0 ++ p1 ++ p2 ++ p3) ∧
          executorView t.d = some { cmd := 0x02#8, len := len, buf := payload }

/-- RESERVED_CMD (42_frame_decoder.md R161, R150): never handed over; 'U' where nothing earlier fails. That the frame is
taken whole is the model's choice (log 21). -/
def Obligations.ReservedFrameIsUnknown : Prop :=
  ∀ (cmd len : Byte) (crc : Half) (payload : List Byte) (s : State), s.d.state = .len →
    payload.length = len.toNat → 3 ≤ cmd.toNat →
    ∃ t, exec (.reservedCmd cmd len crc payload) s = .next t ∧ t = { s with d := t.d } ∧
      t.d.state = .rply ∧ executorView t.d = none ∧
      if crc ≠ crc16 (cmd :: payload) then t.d.verdict = .crc ∧ t.d.reply = 0x43#8
      else if s.params.maxPayload.toNat < len.toNat then t.d.verdict = .oversize ∧ t.d.reply = 0x45#8
      else t.d.verdict = .unknown ∧ t.d.reply = 0x55#8

/-- A frame unit E can emit, delivered unchanged, is parsed whole and is accepted or ill-formed for its command, never
`V_CRC`, `V_OVERSIZE` or `V_UNKNOWN` (42_frame_decoder.md R155, marked derived there). -/
def Obligations.EmittedFrameIsNeverDamaged : Prop :=
  ∀ (maxPayload cmd : Byte) (payload : List Byte), isCommand cmd = true → payload.length ≤ maxPayload.toNat →
    ∃ f, parseFrame maxPayload (encodeFrame cmd payload) = some f ∧ f.rest = [] ∧ f.cmd = cmd ∧
      f.payload = payload ∧ (f.verdict = .accept ∨ f.verdict = .format)

/-- While a command is with the executor or a reply waits, no instruction changes the frame received, D.RX takes
nothing, and in `D_EXEC` only D.DONE changes unit D at all (20_memory.md R62, R66; 42_frame_decoder.md R142). -/
def Obligations.AcceptedCommandIsStable : Prop :=
  ∀ (i : Instr) (s t : State), s.d.state = .exec ∨ s.d.state = .rply → exec i s = .next t →
    t.d.cmd = s.d.cmd ∧ t.d.len = s.d.len ∧ t.d.buf = s.d.buf ∧ t.d.verdict = s.d.verdict ∧
    (i.port = .dRx → t = s) ∧ (s.d.state = .exec → i.port ≠ .dDone → t.d = s.d)

/-! ### Unit R and the replies -/

/-- R.DEC: the value of the read, exact equality with one of the four defined bytes or Unknown, empty and longer reads
included; nothing else changes (43_reply_codec.md R172, R173, R174). -/
def Obligations.RDecDecodesReply : Prop :=
  ∀ (read : List Byte) (s : State), exec (.rDec read) s =
    .next { s with ports := s.ports ++ [.decoded
      (if read = [0x4B#8] then .success else if read = [0x43#8] then .crcError
       else if read = [0x45#8] then .error else .unknown)] }

/-- A reply that no SEND can act on is decoded all the same, and nothing else changes: where no pseudo-operation is in
progress, and where unit E holds no frame to release or re-send, as after a reset (43_reply_codec.md R172, R173, R176 to R179).
That a producer whose E.RELEASE or E.RESEND is not enabled stays in its pseudo-operation, and is shown so in one step, is the
model's choice (logs 20, 22). -/
def Obligations.UnawaitedReplyIsOnlyDecoded : Prop :=
  ∀ s : State, s.producer.job = none ∨ s.e.state ≠ .done →
    exec .rplK s = .next { s with ports := s.ports ++ [.decoded .success] } ∧
    exec .rplC s = .next { s with ports := s.ports ++ [.decoded .crcError] } ∧
    exec .rplU s = .next { s with ports := s.ports ++ [.decoded .unknown] } ∧
    exec .rplE s = .next { s with ports := s.ports ++ [.decoded .error] } ∧
    ∀ read, (Instr.rplOther read).wf = true →
      exec (.rplOther read) s = .next { s with ports := s.ports ++ [.decoded .unknown] }

/-- A reply other than 'C' ends SEND: the frame is released and SEND returns Ok, or a failure that names the reply
(44_link_protocol.md R181). That the reply is decoded, the frame released and the result returned in one step is the
model's choice (log 20). -/
def Obligations.ReplyEndsSend : Prop :=
  ∀ s : State, s.producer.job = some .send → s.e.state = .done →
    exec .rplK s = .next { s with e := { s.e with state := .idle }, ports := s.ports ++ [.decoded .success],
                                  producer := { job := none, result := some .sendOk } } ∧
    exec .rplU s = .next { s with e := { s.e with state := .idle }, ports := s.ports ++ [.decoded .unknown],
                                  producer := { job := none, result := some (.sendFailed .unknown) } } ∧
    exec .rplE s = .next { s with e := { s.e with state := .idle }, ports := s.ports ++ [.decoded .error],
                                  producer := { job := none, result := some (.sendFailed .error) } } ∧
    ∀ read, (Instr.rplOther read).wf = true →
      exec (.rplOther read) s =
        .next { s with e := { s.e with state := .idle }, ports := s.ports ++ [.decoded .unknown],
                       producer := { job := none, result := some (.sendFailed .unknown) } }

/-- 'C' makes a waiting producer re-send the identical frame, whatever pseudo-operation it is part of, and go on
waiting; nothing else changes, the address of an upload least of all (44_link_protocol.md R181, R185;
43_reply_codec.md R177). That the whole frame is re-sent in one step is the model's choice (log 20). -/
def Obligations.CrcReplyResendsIdenticalFrame : Prop :=
  ∀ (s : State) (job : Job), s.producer.job = some job → s.e.Inv s.params.maxPayload → s.e.state = .done →
    exec .rplC s = .next { s with
      ports := s.ports ++ .decoded .crcError :: wireOutputs (encodeFrame s.e.cmd s.e.payload)
      link := { s.link with fwd := s.link.fwd ++ encodeFrame s.e.cmd s.e.payload } }

/-! ### The environment's pseudo-operations -/

/-- SEND writes the whole frame and waits for its reply; a payload beyond the cap fails at once with nothing sent
(44_link_protocol.md R181, R182). That the frame is written in one step is the model's choice (log 20). -/
def Obligations.SendWritesFrameOrFails : Prop :=
  ∀ (cmd : Byte) (p : List Byte) (s : State), s.producer.job = none → s.e.state = .idle → isCommand cmd = true →
    s.e.buf.length = s.params.maxPayload.toNat →
    ∃ t, exec (.send cmd p) s = .next t ∧
      if p.length ≤ s.params.maxPayload.toNat then
        t = { s with
          e := t.e
          ports := s.ports ++ .status .ok :: wireOutputs (encodeFrame cmd p)
          link := { s.link with fwd := s.link.fwd ++ encodeFrame cmd p }
          producer := { s.producer with job := some .send } } ∧
        t.e.state = .done ∧ t.e.cmd = cmd ∧ t.e.payload = p
      else
        t = { s with
          e := t.e
          ports := s.ports ++ [.status .reject]
          producer := { job := none, result := some (.sendFailed .oversized) } } ∧
        t.e.state = .idle

/-- SEND over a link whose first `n` replies are CrcError and whose next is Success writes the identical bytes `n + 1`
times and succeeds (44_link_protocol.md R183, R181). One step per reply is the model's choice (log 20). -/
def Obligations.SendRetriesUntilSuccess : Prop :=
  ∀ (cmd : Byte) (p : List Byte) (n : Nat) (s : State),
    s.producer.job = none → s.e.state = .idle → isCommand cmd = true →
    s.e.buf.length = s.params.maxPayload.toNat → p.length ≤ s.params.maxPayload.toNat →
    ∃ t, execAll (.send cmd p :: (List.replicate n .rplC ++ [.rplK])) s = .next t ∧
      t = { s with e := t.e, ports := t.ports, link := t.link, producer := t.producer } ∧
      t.link = { s.link with fwd := s.link.fwd ++ (List.replicate (n + 1) (encodeFrame cmd p)).flatten } ∧
      t.producer = { job := none, result := some .sendOk } ∧ t.e.state = .idle

/-- UPLOAD and BOOT of a non-empty image write the LOAD frame of the first chunk and wait; of an empty image, UPLOAD
returns Ok with nothing sent and BOOT writes the JUMP frame. With a cap below 4 no LOAD or JUMP frame can be encoded and
the first SEND fails with nothing sent (44_link_protocol.md R181, R184, R186; 93_implementation_defined.md U18). That the frame
is written in one step is the model's choice (log 20), and so is what BOOT then returns, UPLOAD's failure or `jumpFailed`, for
R186 gives it no result (log 27). -/
def Obligations.UploadAndBootWriteFirstFrame : Prop :=
  ∀ (base entry : Addr) (image : List Byte) (s : State), s.producer.job = none → s.e.state = .idle →
    s.e.buf.length = s.params.maxPayload.toNat →
    ∃ t u, exec (.upload base image) s = .next t ∧ exec (.boot base entry image) s = .next u ∧
      t = { s with e := t.e, ports := t.ports, link := t.link, producer := t.producer } ∧
      u = { s with e := u.e, ports := u.ports, link := u.link, producer := u.producer } ∧
      (image = [] → t = { s with producer := { job := none, result := some (.uploadOk 0) } }) ∧
      if s.params.maxPayload.toNat < 4 then
        t.link = s.link ∧ u.link = s.link ∧ t.e.state = .idle ∧ u.e.state = .idle ∧
        (image ≠ [] → t.producer = { job := none, result := some (.uploadFailed .oversized base 0) } ∧
          u.producer = t.producer) ∧
        (image = [] → u.producer = { job := none, result := some (.jumpFailed .oversized) })
      else if image = [] then
        u.link = { s.link with fwd := s.link.fwd ++ encodeFrame 0x02#8 (be32 entry) } ∧
        u.producer.job = some .jump ∧ u.e.state = .done
      else
        let k := min (s.params.maxPayload.toNat - 4) image.length
        t.link = { s.link with fwd := s.link.fwd ++ encodeFrame 0x01#8 (be32 base ++ image.take k) } ∧
        u.link = t.link ∧ t.producer.job = some (.chunk image base 0 k none) ∧
        u.producer.job = some (.chunk image base 0 k (some entry)) ∧ t.e.state = .done ∧ u.e.state = .done

/-- UPLOAD answered by Success every time: chunk `j` travels in a LOAD frame with address `base + j * CHUNK_MAX`, in
order, with no gap and no overlap, and the upload returns the image's length (44_link_protocol.md R184, R185). One step per
reply is the model's choice (log 20). -/
def Obligations.UploadSendsConsecutiveChunks : Prop :=
  ∀ (base : Addr) (image : List Byte) (s : State) (c n : Nat),
    s.producer.job = none → s.e.state = .idle → s.e.buf.length = s.params.maxPayload.toNat →
    4 < s.params.maxPayload.toNat → c = s.params.maxPayload.toNat - 4 → n = (image.length + c - 1) / c →
    base.toNat + image.length ≤ 2 ^ 32 →
    ∃ t, execAll (.upload base image :: List.replicate n .rplK) s = .next t ∧
      t = { s with e := t.e, ports := t.ports, link := t.link, producer := t.producer } ∧
      t.link = { s.link with fwd := s.link.fwd ++ ((List.range n).map (fun j =>
        encodeFrame 0x01#8 (be32 (base + BitVec.ofNat 32 (j * c)) ++ (image.drop (j * c)).take c))).flatten } ∧
      t.producer = { job := none, result := some (.uploadOk image.length) } ∧ t.e.state = .idle

/-- BOOT answered by Success every time: the LOAD frames of UPLOAD, then the JUMP frame with the entry address, then
nothing (44_link_protocol.md R186, R184). One step per reply is the model's choice (log 20), and so is the result `bootOk`, for
R186 gives BOOT none (log 27). -/
def Obligations.BootSendsImageThenJump : Prop :=
  ∀ (base entry : Addr) (image : List Byte) (s : State) (c n : Nat),
    s.producer.job = none → s.e.state = .idle → s.e.buf.length = s.params.maxPayload.toNat →
    4 < s.params.maxPayload.toNat → c = s.params.maxPayload.toNat - 4 → n = (image.length + c - 1) / c →
    base.toNat + image.length ≤ 2 ^ 32 →
    ∃ t, execAll (.boot base entry image :: List.replicate (n + 1) .rplK) s = .next t ∧
      t = { s with e := t.e, ports := t.ports, link := t.link, producer := t.producer } ∧
      t.link = { s.link with fwd := (s.link.fwd ++ ((List.range n).map (fun j =>
        encodeFrame 0x01#8 (be32 (base + BitVec.ofNat 32 (j * c)) ++ (image.drop (j * c)).take c))).flatten ++
        encodeFrame 0x02#8 (be32 entry)) } ∧
      t.producer = { job := none, result := some .bootOk } ∧ t.e.state = .idle

/-- Every failing reply, 'U', 'E' or an undefined read, ends an upload or a boot at once: for a chunk, with the address
reached and the bytes sent before it; for BOOT's JUMP frame, with a failed jump, the upload not attempted again. The frame is
released and no other is written (44_link_protocol.md R184, R186, R187; 43_reply_codec.md R172). That this is one step is the
model's choice (log 20), and so is what BOOT returns, UPLOAD's failure for a chunk and `jumpFailed` with its reason for the JUMP
frame: R186 says only that a failed jump is reported (log 27). -/
def Obligations.UploadStopsAtFailure : Prop :=
  ∀ (job : Job) (s : State) (failed : SendFailure → JobResult) (ended : Reply → SendFailure → State),
    s.producer.job = some job → s.e.state = .done →
    ((∃ image cur pos k entry, job = .chunk image cur pos k entry ∧ failed = fun why => .uploadFailed why cur pos) ∨
     (job = .jump ∧ failed = .jumpFailed)) →
    (∀ reply why, ended reply why = { s with
      e := { s.e with state := .idle }
      ports := s.ports ++ [.decoded reply]
      producer := { job := none, result := some (failed why) } }) →
    exec .rplU s = .next (ended .unknown .unknown) ∧
    exec .rplE s = .next (ended .error .error) ∧
    ∀ read, (Instr.rplOther read).wf = true → exec (.rplOther read) s = .next (ended .unknown .unknown)

/-! ### The machine -/

/-- Every instruction has a next state, and an event whose enabling condition is false changes nothing and produces nothing (00_scope.md R13; the conditions of
41_frame_encoder.md R122 to R127 and 42_frame_decoder.md R142, R152, R153). That such an event is a step that changes nothing,
where R13 gives it no step, is the model's choice (log 19); so are the conditions of whole frames and of the
pseudo-operations (logs 21, 22). -/
def Obligations.DisabledEventsChangeNothing : Prop :=
  ∀ s : State,
    (∀ i : Instr, ∃ t, exec i s = .next t) ∧
    (∀ cmd : Byte, s.e.state ≠ .idle ∨ 0x02 < cmd.toNat → exec (.eBegin cmd) s = .next s) ∧
    (s.e.state ≠ .fill → (∀ d, exec (.ePush d) s = .next s) ∧ exec .eEnd s = .next s) ∧
    (s.e.state ≠ .send → exec .ePop s = .next s) ∧
    (s.e.state ≠ .done → exec .eResend s = .next s ∧ exec .eRelease s = .next s) ∧
    (s.d.state = .exec ∨ s.d.state = .rply → ∀ b, exec (.dRx b) s = .next s) ∧
    (s.d.state ≠ .exec → ∀ ok, exec (.dDone ok) s = .next s) ∧
    (s.d.state ≠ .rply → exec .dTx s = .next s) ∧
    (∀ i : Instr, enabled i s = false → exec i s = .next s)

/-- A step runs the decoded instruction: on the outside's turn at a port, when the bytes of its first stimulus there decode
to `i`, `i` is enabled and the outside drives the port, the step is `exec i` with the turn used up and the bytes of `i` taken.
Where `i` is not enabled, another agent drives the port, or the bytes are no event of it, only the turn is used up
(00_scope.md R13, 60_exceptions.md R213; the agenda and the turns are the model's, logs 7, 9, 10). -/
def Obligations.StepRunsDecodedInstruction : Prop :=
  ∀ (s u : State) (port : Port) (bytes : List Byte) (before later : List Stimulus) (moves : List Move),
    s.moves = .outside port :: moves → s.agenda = before ++ { port := port, bytes := bytes } :: later →
    (∀ st ∈ before, st.port ≠ port) → u = { s with moves := moves, tick := s.tick + 1 } →
    (∀ i left, decode port bytes = .ok (i, left) → i.wf = true → enabled i s = true → outsideDrives port s = true →
      step s = exec i { u with
        agenda := before ++ (if left = [] then later else { port := port, bytes := left } :: later) }) ∧
    (∀ i left, decode port bytes = .ok (i, left) → enabled i s = false ∨ outsideDrives port s = false →
      step s = .next u) ∧
    (∀ why, decode port bytes = .error why → step s = .next u)

/-- The other agents' turns. The link delivers the oldest byte, changed by the mask, as a D.RX, or as a reply read of the
producer, in every state: the reply of its pseudo-operation, or R.DEC of that byte where none is in progress. Where D.RX is not
enabled the byte stays on the link. The executor reports; the reply byte is taken. With `corrupt_only` nothing is lost, duplicated or inserted; with `any` the oldest byte can be lost, or
delivered and kept, and a byte nobody sent can be delivered. Where the outside stands for the link or the executor, that agent
does nothing (44_link_protocol.md R180, R189; 43_reply_codec.md R173; 42_frame_decoder.md R142; 20_memory.md R61, R62; 60_exceptions.md
R213; the turns are the model's, logs 3, 7, 9, 22). -/
def Obligations.AgentsTakeTheirEvents : Prop :=
  ∀ (s u : State) (moves : List Move), u = { s with moves := moves, tick := s.tick + 1 } →
    (s.params.drivers.link = .agent → s.d.state ≠ .exec → s.d.state ≠ .rply → ∀ mask b rest,
      (s.moves = .link (.deliver mask) :: moves → s.link.fwd = b :: rest →
        step s = exec (.dRx (b ^^^ mask)) { u with link := { s.link with fwd := rest } }) ∧
      (s.params.linkFaults = .any → s.moves = .link (.duplicate mask) :: moves → s.link.fwd = b :: rest →
        step s = exec (.dRx (b ^^^ mask)) u) ∧
      (s.params.linkFaults = .any → s.moves = .link (.insert b) :: moves → step s = exec (.dRx b) u)) ∧
    (s.d.state = .exec ∨ s.d.state = .rply → ∀ act, act ≠ .lose → s.moves = .link act :: moves → step s = .next u) ∧
    (s.params.drivers.link = .agent → ∀ mask b rest,
      (s.moves = .producer (.deliver mask) :: moves → s.link.back = b :: rest →
        step s = exec (if s.producer.job = none then .rDec [b ^^^ mask] else decodeReply [b ^^^ mask])
          { u with link := { s.link with back := rest } }) ∧
      (s.params.linkFaults = .any → s.moves = .producer (.duplicate mask) :: moves → s.link.back = b :: rest →
        step s = exec (if s.producer.job = none then .rDec [b ^^^ mask] else decodeReply [b ^^^ mask]) u) ∧
      (s.params.linkFaults = .any → s.moves = .producer (.insert b) :: moves →
        step s = exec (if s.producer.job = none then .rDec [b] else decodeReply [b]) u)) ∧
    (s.params.drivers.link = .agent → s.params.linkFaults = .any → ∀ b rest,
      (s.moves = .link .lose :: moves → s.link.fwd = b :: rest →
        step s = .next { u with link := { s.link with fwd := rest } }) ∧
      (s.moves = .producer .lose :: moves → s.link.back = b :: rest →
        step s = .next { u with link := { s.link with back := rest } })) ∧
    (s.params.linkFaults = .corruptOnly → ∀ act, (∀ mask, act ≠ .deliver mask) →
      s.moves = .link act :: moves ∨ s.moves = .producer act :: moves → step s = .next u) ∧
    (s.params.drivers.executor = .agent → s.d.state = .exec → ∀ ok, s.moves = .executor ok :: moves →
      step s = exec (.dDone ok) u) ∧
    (s.params.drivers.link = .agent → s.d.state = .rply → s.moves = .replyOut :: moves → step s = exec .dTx u) ∧
    (s.params.drivers.link = .outside → ∀ act,
      s.moves = .link act :: moves ∨ s.moves = .producer act :: moves ∨ s.moves = .replyOut :: moves →
      step s = .next u) ∧
    (s.params.drivers.executor = .outside → ∀ ok, s.moves = .executor ok :: moves → step s = .next u)

/-- Reset, at any time: `c_acc`, `e_state` and `d_state` get their reset values; the constants, the bytes on the link and
everything else outside the block stay (70_reset_and_hazards.md R230, R232, R233), but the target where a command was with the
executor, of which nothing is said (log 25). The same three values hold in the machine's first state (10_state.md R44). That
the reset is a turn and that both ends are one block are the model's (logs 7, 26). -/
def Obligations.ResetSetsTheThreeValues : Prop :=
  (∀ (s : State) (moves : List Move), s.moves = .reset :: moves →
    ∃ t, step s = .next t ∧
      t = { s with c := t.c, e := t.e, d := t.d, target := t.target, moves := moves, tick := s.tick + 1 } ∧
      (s.d.state ≠ .exec → t.target = s.target) ∧
      t.c.acc = 0x0000#16 ∧ t.e.state = .idle ∧ t.d.state = .len) ∧
  State.reset.c.acc = 0x0000#16 ∧ State.reset.e.state = .idle ∧ State.reset.d.state = .len

/-- The invariant holds at reset. The values of the registers the spec leaves unspecified are the model's (log 1); the
invariant rests on none of them but the depth of the buffers. -/
def Obligations.ResetMeetsInvariant : Prop := State.reset.Inv

/-- Every step keeps the invariant: the frame unit E holds is within the cap and its accumulator is its checksum;
unit D's counter, accumulator and verdict belong to the bytes received; only an accepted command of legal length and
form is with the executor; the target's memory keeps its canonical form (10_state.md R22 to R27, R32 to R36, R40). No step writes a parameter
(70_reset_and_hazards.md R232). -/
def Obligations.StepKeepsInvariant : Prop :=
  ∀ s t : State, step s = .next t → (s.Inv → t.Inv) ∧ t.params = s.params

/-- The units share no state: what each instruction may change, by the port at which it occurs (00_scope.md R14). Only
the executor's report touches the target (42_frame_decoder.md R151), and no instruction writes a parameter. -/
def Obligations.UnitsShareNoState : Prop :=
  ∀ (i : Instr) (s t : State), exec i s = .next t →
    (i.port ∈ [Port.cClr, Port.cUpd] → t = { s with c := t.c }) ∧
    (i.port ∈ [Port.cVal, Port.rDec] → t = { s with ports := t.ports }) ∧
    (i.port ∈ [Port.eBegin, Port.ePush, Port.eEnd, Port.ePop, Port.eResend, Port.eRelease] →
      t = { s with e := t.e, ports := t.ports, link := { s.link with fwd := t.link.fwd } }) ∧
    (i.port ∈ [Port.frame, Port.dRx] → t = { s with d := t.d }) ∧
    (i.port = .dDone → t = { s with d := t.d, target := t.target }) ∧
    (i.port = .dTx → t = { s with d := t.d, ports := t.ports, link := { s.link with back := t.link.back } }) ∧
    (i.port ∈ [Port.reply, Port.send, Port.upload, Port.boot] →
      t = { s with e := t.e, ports := t.ports, link := { s.link with fwd := t.link.fwd }, producer := t.producer })

/-- Only an accepted frame reaches the target: a step that changes the target starts with a command at the executor whose
verdict is `V_ACCEPT`, whose checksum matches and whose length is legal, and ends with its reply waiting, unless it is a reset
(42_frame_decoder.md R151, R154; 60_exceptions.md R206). That the target changes in the step of D.DONE, that it does not change
by itself after a JUMP, and that a reset leaves open what the executor had done, are the model's (logs 23, 16, 25). -/
def Obligations.OnlyAcceptedFramesReachTarget : Prop :=
  ∀ s t : State, s.Inv → step s = .next t → t.target ≠ s.target →
    s.d.state = .exec ∧ s.d.verdict = .accept ∧ s.d.crc = crc16 (s.d.cmd :: s.d.payload) ∧
    s.d.len.toNat ≤ s.params.maxPayload.toNat ∧ s.d.cmd.toNat ≤ 0x02 ∧ (t.d.state = .rply ∨ s.move = .reset)

/-- A reply byte says what happened: in every state of the invariant in which D.TX is enabled, 'C' is sent exactly for
`V_CRC`, 'U' exactly for `V_UNKNOWN`, 'K' only for `V_ACCEPT`, and no other byte than these and 'E'
(43_reply_codec.md R171, R176 to R179). -/
def Obligations.ReplyByteTellsVerdict : Prop :=
  ∀ s : State, s.Inv → s.d.state = .rply →
    (s.d.reply = 0x43#8 ↔ s.d.verdict = .crc) ∧ (s.d.reply = 0x55#8 ↔ s.d.verdict = .unknown) ∧
    (s.d.reply = 0x4B#8 → s.d.verdict = .accept) ∧
    s.d.reply ∈ [0x4B#8, 0x43#8, 0x55#8, 0x45#8]

/-- End to end: SEND of a LOAD frame over a link that changes nothing, with an executor that reports success, leaves
exactly the data at its addresses in the target, and SEND returns Ok, with the link empty and units E and D ready for the
next frame (program P1 of 95_test_vectors.md; 42_frame_decoder.md R159, 44_link_protocol.md R180, R181, R189). The schedule, the
frame written in one step and the executor's effect at D.DONE are the model's (logs 7, 20, 23). -/
def Obligations.SendLoadReachesTarget : Prop :=
  ∀ (s : State) (addr : Addr) (data : List Byte),
    s.producer.job = none → s.e.state = .idle → s.e.buf.length = s.params.maxPayload.toNat →
    s.d.state = .len → s.d.buf.length = s.params.maxPayload.toNat → s.link = { fwd := [], back := [] } →
    4 + data.length ≤ s.params.maxPayload.toNat → addr.toNat + data.length ≤ 2 ^ 32 →
    s.agenda = [{ port := .send, bytes := 0x01#8 :: (be32 addr ++ data) }] →
    s.params.drivers = { link := .agent, executor := .agent } →
    s.moves = .outside .send :: (List.replicate (8 + data.length) (.link (.deliver 0#8)) ++
      [.executor true, .replyOut, .producer (.deliver 0#8)]) →
    ∃ t, Host.Core.run Sys2Proof.core (12 + data.length) s = .next t ∧
      t.producer = { job := none, result := some .sendOk } ∧ t.link = { fwd := [], back := [] } ∧
      t.e.state = .idle ∧ t.d.state = .len ∧ t.c = s.c ∧ t.target.pc = s.target.pc ∧
      (∀ k, k < data.length → Memory.read t.target.mem (addr.toNat + k) = data[k]?) ∧
      (∀ a, a < addr.toNat ∨ addr.toNat + data.length ≤ a →
        Memory.read t.target.mem a = Memory.read s.target.mem a)
end

