-- ==== Sys2Proof/Laws/Memory.lean ====
section
/-! SUPPORT. The target's memory: every operation keeps the canonical form, and a read after a write. -/

namespace Sys2Proof.Machine

/-! ### The canonical form -/

theorem Memory.wfFrom_mono {lo lo' : Nat} (h : lo' ≤ lo) : ∀ {m : Memory},
    Memory.wfFrom lo m = true → Memory.wfFrom lo' m = true
  | [], _ => rfl
  | (a, b) :: rest, hm => by
    simp only [Memory.wfFrom, Bool.and_eq_true, decide_eq_true_eq] at hm ⊢
    exact ⟨⟨by omega, hm.1.2⟩, hm.2⟩

theorem Memory.insert_wfFrom {at' : Nat} (b : Byte) (hat : at' < 2 ^ 32) : ∀ {lo : Nat} {m : Memory},
    lo ≤ at' → Memory.wfFrom lo m = true → Memory.wfFrom lo (Memory.insert m at' b) = true
  | lo, [], hlo, _ => by
    simp only [Memory.insert, Memory.wfFrom, Bool.and_eq_true, decide_eq_true_eq]
    exact ⟨⟨hlo, hat⟩, trivial⟩
  | lo, (a, x) :: rest, hlo, hm => by
    simp only [Memory.wfFrom, Bool.and_eq_true, decide_eq_true_eq] at hm
    unfold Memory.insert
    split
    · rename_i hlt
      simp only [Memory.wfFrom, Bool.and_eq_true, decide_eq_true_eq]
      exact ⟨⟨hlo, hat⟩, ⟨by omega, hm.1.2⟩, hm.2⟩
    · split
      · rename_i heq
        subst heq
        simp only [Memory.wfFrom, Bool.and_eq_true, decide_eq_true_eq]
        exact hm
      · simp only [Memory.wfFrom, Bool.and_eq_true, decide_eq_true_eq]
        exact ⟨hm.1, Memory.insert_wfFrom b hat (by omega) hm.2⟩

theorem Memory.write_wf {m : Memory} (at' : Nat) (b : Byte) (hm : m.wf = true) :
    (Memory.write m at' b).wf = true := by
  unfold Memory.write
  split
  · rename_i hat
    exact Memory.insert_wfFrom b hat (Nat.zero_le _) hm
  · exact hm

theorem Memory.writeBytes_wf (bs : List Byte) : ∀ {m : Memory} (at' : Nat), m.wf = true →
    (Memory.writeBytes m at' bs).wf = true := by
  induction bs with
  | nil => intro m at' hm; exact hm
  | cons b bs ih => intro m at' hm; exact ih _ (Memory.write_wf at' b hm)

theorem Memory.ofCells_wf : ∀ cells : List Host.Cell, (Memory.ofCells cells).wf = true
  | [] => rfl
  | (a, b) :: cells => Memory.write_wf a b (Memory.ofCells_wf cells)

theorem Memory.writeSome_wf {m : Memory} (at' : Nat) (choice : Nat → Option Byte) (hm : m.wf = true) :
    ∀ n, (Memory.writeSome m at' choice n).wf = true
  | 0 => hm
  | n + 1 => by
    unfold Memory.writeSome
    split
    · exact Memory.write_wf _ _ (Memory.writeSome_wf at' choice hm n)
    · exact Memory.writeSome_wf at' choice hm n

theorem Memory.reset_wf : State.reset.target.mem.wf = true := rfl

/-! ### Reads after writes -/

theorem Memory.read_cons (a : Nat) (y : Byte) (rest : Memory) (x : Nat) :
    Memory.read ((a, y) :: rest) x = if a = x then some y else Memory.read rest x := rfl

theorem Memory.read_insert (at' : Nat) (b : Byte) (x : Nat) : ∀ m : Memory,
    Memory.read (Memory.insert m at' b) x = if x = at' then some b else Memory.read m x
  | [] => by
    rw [Memory.insert, Memory.read_cons]
    by_cases h : at' = x
    · rw [if_pos h, if_pos h.symm]
    · rw [if_neg h, if_neg (Ne.symm h)]
  | (a, y) :: rest => by
    have ih := Memory.read_insert at' b x rest
    unfold Memory.insert
    split
    · rw [Memory.read_cons]
      by_cases h : at' = x
      · rw [if_pos h, if_pos h.symm]
      · rw [if_neg h, if_neg (Ne.symm h)]
    · split
      · rename_i _ heq
        subst heq
        rw [Memory.read_cons, Memory.read_cons]
        by_cases h : at' = x
        · rw [if_pos h, if_pos h.symm]
        · rw [if_neg h, if_neg (Ne.symm h), if_neg h]
      · rename_i _ hne
        rw [Memory.read_cons, Memory.read_cons, ih]
        by_cases h : a = x
        · rw [if_pos h, if_pos h, if_neg (by omega)]
        · rw [if_neg h, if_neg h]

theorem Memory.read_write (m : Memory) {at' : Nat} (b : Byte) (x : Nat) (hat : at' < 2 ^ 32) :
    Memory.read (Memory.write m at' b) x = if x = at' then some b else Memory.read m x := by
  rw [Memory.write, if_pos hat, Memory.read_insert]

theorem Memory.read_write_other (m : Memory) (at' : Nat) (b : Byte) {x : Nat} (hx : x ≠ at') :
    Memory.read (Memory.write m at' b) x = Memory.read m x := by
  unfold Memory.write
  split
  · rw [Memory.read_insert, if_neg hx]
  · rfl

theorem Memory.read_writeBytes_other (bs : List Byte) : ∀ (m : Memory) (at' : Nat) {x : Nat},
    (x < at' ∨ at' + bs.length ≤ x) → Memory.read (Memory.writeBytes m at' bs) x = Memory.read m x := by
  induction bs with
  | nil => intro m at' x _; rfl
  | cons b bs ih =>
    intro m at' x hx
    simp only [List.length_cons] at hx
    rw [Memory.writeBytes, ih _ _ (by omega), Memory.read_write_other _ _ _ (by omega)]

theorem Memory.read_writeBytes (bs : List Byte) : ∀ (m : Memory) (at' : Nat) {i : Nat},
    at' + bs.length ≤ 2 ^ 32 → i < bs.length →
    Memory.read (Memory.writeBytes m at' bs) (at' + i) = bs[i]? := by
  induction bs with
  | nil => intro m at' i _ hi; simp at hi
  | cons b bs ih =>
    intro m at' i hat hi
    simp only [List.length_cons] at hat hi
    cases i with
    | zero =>
      rw [Memory.writeBytes, Memory.read_writeBytes_other _ _ _ (by omega), Memory.read_write _ _ _ (by omega)]
      simp
    | succ i =>
      have := ih (Memory.write m at' b) (at' + 1) (i := i) (by omega) (by omega)
      rw [Memory.writeBytes, show at' + (i + 1) = at' + 1 + i by omega, this]
      simp

theorem Memory.read_writeSome_other (m : Memory) (at' : Nat) (choice : Nat → Option Byte) {x : Nat} :
    ∀ n, (x < at' ∨ at' + n ≤ x) → Memory.read (Memory.writeSome m at' choice n) x = Memory.read m x
  | 0, _ => rfl
  | n + 1, hx => by
    have ih := Memory.read_writeSome_other m at' choice n (x := x) (by omega)
    unfold Memory.writeSome
    split
    · rw [Memory.read_write_other _ _ _ (by omega), ih]
    · exact ih

end Sys2Proof.Machine
end

