-- ==== Sys2Proof/Laws/PerInstr.lean ====
section
/-! SUPPORT. Facts about every instruction as syntax, one lemma per constructor. -/

namespace Sys2Proof.Laws.EncodedLength

/-- How many bytes an instruction carries at its port: 4 + LEN for a frame (30_encoding.md R70), one for a reply, the
operand bytes for an event (20_memory.md R56). -/
def bytesOf : Instr → Nat
  | .abort len _ _ => 4 + len.toNat
  | .load len _ _ => 4 + len.toNat
  | .jump len _ _ => 4 + len.toNat
  | .reservedCmd _ len _ _ => 4 + len.toNat
  | .rplK => 1
  | .rplC => 1
  | .rplU => 1
  | .rplE => 1
  | .rplOther read => read.length
  | .cClr => 0
  | .cUpd _ => 1
  | .cVal => 0
  | .eBegin _ => 1
  | .ePush _ => 1
  | .eEnd => 0
  | .ePop => 0
  | .eResend => 0
  | .eRelease => 0
  | .dRx _ => 1
  | .dDone _ => 1
  | .dTx => 0
  | .rDec read => read.length
  | .send _ payload => 1 + payload.length
  | .upload _ image => 4 + image.length
  | .boot _ _ image => 8 + image.length

/-- A well-formed instruction carries that many bytes. -/
def Statement (i : Instr) : Prop := i.wf = true → (encode i).length = bytesOf i

theorem frameWire_length (cmd len : Byte) (crc : Half) {payload : List Byte} (h : lenMatches len payload = true) :
    (frameWire cmd len crc payload).length = 4 + len.toNat := by
  simp only [lenMatches, beq_iff_eq] at h
  simp [frameWire, be16, h]
  omega

theorem abort (len : Byte) (crc : Half) (payload : List Byte) : Statement (.abort len crc payload) :=
  fun h => frameWire_length _ _ _ h

theorem load (len : Byte) (crc : Half) (payload : List Byte) : Statement (.load len crc payload) :=
  fun h => frameWire_length _ _ _ h

theorem jump (len : Byte) (crc : Half) (payload : List Byte) : Statement (.jump len crc payload) :=
  fun h => frameWire_length _ _ _ h

theorem reservedCmd (cmd len : Byte) (crc : Half) (payload : List Byte) :
    Statement (.reservedCmd cmd len crc payload) := fun h => by
  simp only [Instr.wf, Bool.and_eq_true] at h
  exact frameWire_length _ _ _ h.2

theorem rplK : Statement .rplK := fun _ => rfl
theorem rplC : Statement .rplC := fun _ => rfl
theorem rplU : Statement .rplU := fun _ => rfl
theorem rplE : Statement .rplE := fun _ => rfl
theorem rplOther (read : List Byte) : Statement (.rplOther read) := fun _ => rfl
theorem cClr : Statement .cClr := fun _ => rfl
theorem cUpd (d : Byte) : Statement (.cUpd d) := fun _ => rfl
theorem cVal : Statement .cVal := fun _ => rfl
theorem eBegin (cmd : Byte) : Statement (.eBegin cmd) := fun _ => rfl
theorem ePush (d : Byte) : Statement (.ePush d) := fun _ => rfl
theorem eEnd : Statement .eEnd := fun _ => rfl
theorem ePop : Statement .ePop := fun _ => rfl
theorem eResend : Statement .eResend := fun _ => rfl
theorem eRelease : Statement .eRelease := fun _ => rfl
theorem dRx (b : Byte) : Statement (.dRx b) := fun _ => rfl
theorem dDone (ok : Bool) : Statement (.dDone ok) := fun _ => rfl
theorem dTx : Statement .dTx := fun _ => rfl
theorem rDec (read : List Byte) : Statement (.rDec read) := fun _ => rfl

theorem send (cmd : Byte) (payload : List Byte) : Statement (.send cmd payload) := fun _ => by
  simp [encode, bytesOf]
  omega

theorem upload (base : Addr) (image : List Byte) : Statement (.upload base image) := fun _ => by
  simp [encode, bytesOf, be32]
  omega

theorem boot (base entry : Addr) (image : List Byte) : Statement (.boot base entry image) := fun _ => by
  simp [encode, bytesOf, be32]
  omega

end Sys2Proof.Laws.EncodedLength
end

