-- ==== Sys2Proof/Laws/State.lean ====
section
/-! SUPPORT. One lemma per field per update, each true by unfolding: later proofs cite these instead of opening a record. -/

namespace Sys2Proof.Machine

/-! ### Operations on the whole state -/

@[simp] theorem emit_c (s : State) (o : Output) : (s.emit o).c = s.c := rfl
@[simp] theorem emit_e (s : State) (o : Output) : (s.emit o).e = s.e := rfl
@[simp] theorem emit_d (s : State) (o : Output) : (s.emit o).d = s.d := rfl
@[simp] theorem emit_params (s : State) (o : Output) : (s.emit o).params = s.params := rfl
@[simp] theorem emit_ports (s : State) (o : Output) : (s.emit o).ports = s.ports ++ [o] := rfl
@[simp] theorem emit_link (s : State) (o : Output) : (s.emit o).link = s.link := rfl
@[simp] theorem emit_producer (s : State) (o : Output) : (s.emit o).producer = s.producer := rfl
@[simp] theorem emit_target (s : State) (o : Output) : (s.emit o).target = s.target := rfl
@[simp] theorem emit_agenda (s : State) (o : Output) : (s.emit o).agenda = s.agenda := rfl
@[simp] theorem emit_moves (s : State) (o : Output) : (s.emit o).moves = s.moves := rfl
@[simp] theorem emit_tick (s : State) (o : Output) : (s.emit o).tick = s.tick := rfl

@[simp] theorem takeTurn_c (s : State) : (s.takeTurn).c = s.c := rfl
@[simp] theorem takeTurn_e (s : State) : (s.takeTurn).e = s.e := rfl
@[simp] theorem takeTurn_d (s : State) : (s.takeTurn).d = s.d := rfl
@[simp] theorem takeTurn_params (s : State) : (s.takeTurn).params = s.params := rfl
@[simp] theorem takeTurn_ports (s : State) : (s.takeTurn).ports = s.ports := rfl
@[simp] theorem takeTurn_link (s : State) : (s.takeTurn).link = s.link := rfl
@[simp] theorem takeTurn_producer (s : State) : (s.takeTurn).producer = s.producer := rfl
@[simp] theorem takeTurn_target (s : State) : (s.takeTurn).target = s.target := rfl
@[simp] theorem takeTurn_agenda (s : State) : (s.takeTurn).agenda = s.agenda := rfl
@[simp] theorem takeTurn_moves (s : State) : (s.takeTurn).moves = s.moves.tail := rfl
@[simp] theorem takeTurn_tick (s : State) : (s.takeTurn).tick = s.tick + 1 := rfl

@[simp] theorem withFwd_c (s : State) (bytes : List Byte) : (s.withFwd bytes).c = s.c := rfl
@[simp] theorem withFwd_e (s : State) (bytes : List Byte) : (s.withFwd bytes).e = s.e := rfl
@[simp] theorem withFwd_d (s : State) (bytes : List Byte) : (s.withFwd bytes).d = s.d := rfl
@[simp] theorem withFwd_params (s : State) (bytes : List Byte) : (s.withFwd bytes).params = s.params := rfl
@[simp] theorem withFwd_ports (s : State) (bytes : List Byte) : (s.withFwd bytes).ports = s.ports := rfl
@[simp] theorem withFwd_link (s : State) (bytes : List Byte) : (s.withFwd bytes).link = { s.link with fwd := bytes } := rfl
@[simp] theorem withFwd_producer (s : State) (bytes : List Byte) : (s.withFwd bytes).producer = s.producer := rfl
@[simp] theorem withFwd_target (s : State) (bytes : List Byte) : (s.withFwd bytes).target = s.target := rfl
@[simp] theorem withFwd_agenda (s : State) (bytes : List Byte) : (s.withFwd bytes).agenda = s.agenda := rfl
@[simp] theorem withFwd_moves (s : State) (bytes : List Byte) : (s.withFwd bytes).moves = s.moves := rfl
@[simp] theorem withFwd_tick (s : State) (bytes : List Byte) : (s.withFwd bytes).tick = s.tick := rfl

@[simp] theorem withBack_c (s : State) (bytes : List Byte) : (s.withBack bytes).c = s.c := rfl
@[simp] theorem withBack_e (s : State) (bytes : List Byte) : (s.withBack bytes).e = s.e := rfl
@[simp] theorem withBack_d (s : State) (bytes : List Byte) : (s.withBack bytes).d = s.d := rfl
@[simp] theorem withBack_params (s : State) (bytes : List Byte) : (s.withBack bytes).params = s.params := rfl
@[simp] theorem withBack_ports (s : State) (bytes : List Byte) : (s.withBack bytes).ports = s.ports := rfl
@[simp] theorem withBack_link (s : State) (bytes : List Byte) : (s.withBack bytes).link = { s.link with back := bytes } := rfl
@[simp] theorem withBack_producer (s : State) (bytes : List Byte) : (s.withBack bytes).producer = s.producer := rfl
@[simp] theorem withBack_target (s : State) (bytes : List Byte) : (s.withBack bytes).target = s.target := rfl
@[simp] theorem withBack_agenda (s : State) (bytes : List Byte) : (s.withBack bytes).agenda = s.agenda := rfl
@[simp] theorem withBack_moves (s : State) (bytes : List Byte) : (s.withBack bytes).moves = s.moves := rfl
@[simp] theorem withBack_tick (s : State) (bytes : List Byte) : (s.withBack bytes).tick = s.tick := rfl

@[simp] theorem finish_c (r : JobResult) (s : State) : (finish r s).c = s.c := rfl
@[simp] theorem finish_e (r : JobResult) (s : State) : (finish r s).e = s.e := rfl
@[simp] theorem finish_d (r : JobResult) (s : State) : (finish r s).d = s.d := rfl
@[simp] theorem finish_params (r : JobResult) (s : State) : (finish r s).params = s.params := rfl
@[simp] theorem finish_ports (r : JobResult) (s : State) : (finish r s).ports = s.ports := rfl
@[simp] theorem finish_link (r : JobResult) (s : State) : (finish r s).link = s.link := rfl
@[simp] theorem finish_producer (r : JobResult) (s : State) : (finish r s).producer = { job := none, result := some r } := rfl
@[simp] theorem finish_target (r : JobResult) (s : State) : (finish r s).target = s.target := rfl
@[simp] theorem finish_agenda (r : JobResult) (s : State) : (finish r s).agenda = s.agenda := rfl
@[simp] theorem finish_moves (r : JobResult) (s : State) : (finish r s).moves = s.moves := rfl
@[simp] theorem finish_tick (r : JobResult) (s : State) : (finish r s).tick = s.tick := rfl

@[simp] theorem endFrame_c (s : State) : (endFrame s).c = s.c := rfl
@[simp] theorem endFrame_e (s : State) : (endFrame s).e = endE s.e := rfl
@[simp] theorem endFrame_d (s : State) : (endFrame s).d = s.d := rfl
@[simp] theorem endFrame_params (s : State) : (endFrame s).params = s.params := rfl
@[simp] theorem endFrame_ports (s : State) : (endFrame s).ports = s.ports ++ [.status (endStatus s.e)] := rfl
@[simp] theorem endFrame_link (s : State) : (endFrame s).link = s.link := rfl
@[simp] theorem endFrame_producer (s : State) : (endFrame s).producer = s.producer := rfl
@[simp] theorem endFrame_target (s : State) : (endFrame s).target = s.target := rfl
@[simp] theorem endFrame_agenda (s : State) : (endFrame s).agenda = s.agenda := rfl
@[simp] theorem endFrame_moves (s : State) : (endFrame s).moves = s.moves := rfl
@[simp] theorem endFrame_tick (s : State) : (endFrame s).tick = s.tick := rfl

@[simp] theorem popByte_c (s : State) : (popByte s).c = s.c := rfl
@[simp] theorem popByte_e (s : State) : (popByte s).e = popE s.e := rfl
@[simp] theorem popByte_d (s : State) : (popByte s).d = s.d := rfl
@[simp] theorem popByte_params (s : State) : (popByte s).params = s.params := rfl
@[simp] theorem popByte_ports (s : State) : (popByte s).ports = s.ports ++ [.wire (wireByte s.e (Config.freeByte s.tick)) (isLastByte s.e)] := rfl
@[simp] theorem popByte_link (s : State) : (popByte s).link = { s.link with fwd := s.link.fwd ++ [wireByte s.e (Config.freeByte s.tick)] } := rfl
@[simp] theorem popByte_producer (s : State) : (popByte s).producer = s.producer := rfl
@[simp] theorem popByte_target (s : State) : (popByte s).target = s.target := rfl
@[simp] theorem popByte_agenda (s : State) : (popByte s).agenda = s.agenda := rfl
@[simp] theorem popByte_moves (s : State) : (popByte s).moves = s.moves := rfl
@[simp] theorem popByte_tick (s : State) : (popByte s).tick = s.tick := rfl

@[simp] theorem transmitReply_c (s : State) : (transmitReply s).c = s.c := rfl
@[simp] theorem transmitReply_e (s : State) : (transmitReply s).e = s.e := rfl
@[simp] theorem transmitReply_d (s : State) : (transmitReply s).d = transmitD s.d := rfl
@[simp] theorem transmitReply_params (s : State) : (transmitReply s).params = s.params := rfl
@[simp] theorem transmitReply_ports (s : State) : (transmitReply s).ports = s.ports ++ [.reply s.d.reply] := rfl
@[simp] theorem transmitReply_link (s : State) : (transmitReply s).link = { s.link with back := s.link.back ++ [s.d.reply] } := rfl
@[simp] theorem transmitReply_producer (s : State) : (transmitReply s).producer = s.producer := rfl
@[simp] theorem transmitReply_target (s : State) : (transmitReply s).target = s.target := rfl
@[simp] theorem transmitReply_agenda (s : State) : (transmitReply s).agenda = s.agenda := rfl
@[simp] theorem transmitReply_moves (s : State) : (transmitReply s).moves = s.moves := rfl
@[simp] theorem transmitReply_tick (s : State) : (transmitReply s).tick = s.tick := rfl

@[simp] theorem receiveFrame_c (cmd len : Byte) (crc : Half) (payload : List Byte) (s : State) : (receiveFrame cmd len crc payload s).c = s.c := rfl
@[simp] theorem receiveFrame_e (cmd len : Byte) (crc : Half) (payload : List Byte) (s : State) : (receiveFrame cmd len crc payload s).e = s.e := rfl
@[simp] theorem receiveFrame_d (cmd len : Byte) (crc : Half) (payload : List Byte) (s : State) : (receiveFrame cmd len crc payload s).d = receiveAll s.params.maxPayload (frameWire cmd len crc payload) s.d := rfl
@[simp] theorem receiveFrame_params (cmd len : Byte) (crc : Half) (payload : List Byte) (s : State) : (receiveFrame cmd len crc payload s).params = s.params := rfl
@[simp] theorem receiveFrame_ports (cmd len : Byte) (crc : Half) (payload : List Byte) (s : State) : (receiveFrame cmd len crc payload s).ports = s.ports := rfl
@[simp] theorem receiveFrame_link (cmd len : Byte) (crc : Half) (payload : List Byte) (s : State) : (receiveFrame cmd len crc payload s).link = s.link := rfl
@[simp] theorem receiveFrame_producer (cmd len : Byte) (crc : Half) (payload : List Byte) (s : State) : (receiveFrame cmd len crc payload s).producer = s.producer := rfl
@[simp] theorem receiveFrame_target (cmd len : Byte) (crc : Half) (payload : List Byte) (s : State) : (receiveFrame cmd len crc payload s).target = s.target := rfl
@[simp] theorem receiveFrame_agenda (cmd len : Byte) (crc : Half) (payload : List Byte) (s : State) : (receiveFrame cmd len crc payload s).agenda = s.agenda := rfl
@[simp] theorem receiveFrame_moves (cmd len : Byte) (crc : Half) (payload : List Byte) (s : State) : (receiveFrame cmd len crc payload s).moves = s.moves := rfl
@[simp] theorem receiveFrame_tick (cmd len : Byte) (crc : Half) (payload : List Byte) (s : State) : (receiveFrame cmd len crc payload s).tick = s.tick := rfl

@[simp] theorem blockReset_params (s : State) : (blockReset s).params = s.params := rfl
@[simp] theorem blockReset_ports (s : State) : (blockReset s).ports = s.ports := rfl
@[simp] theorem blockReset_link (s : State) : (blockReset s).link = s.link := rfl
@[simp] theorem blockReset_producer (s : State) : (blockReset s).producer = s.producer := rfl
@[simp] theorem blockReset_target (s : State) : (blockReset s).target = abandonCommand s := rfl
@[simp] theorem blockReset_agenda (s : State) : (blockReset s).agenda = s.agenda := rfl
@[simp] theorem blockReset_moves (s : State) : (blockReset s).moves = s.moves := rfl
@[simp] theorem blockReset_tick (s : State) : (blockReset s).tick = s.tick := rfl
@[simp] theorem blockReset_c (s : State) : (blockReset s).c.acc = 0x0000#16 := rfl
@[simp] theorem blockReset_e_state (s : State) : (blockReset s).e.state = .idle := rfl
@[simp] theorem blockReset_d_state (s : State) : (blockReset s).d.state = .len := rfl

@[simp] theorem linkFromOutside_maxPayload (p : Params) : (linkFromOutside p).maxPayload = p.maxPayload := rfl
@[simp] theorem linkFromOutside_linkFaults (p : Params) : (linkFromOutside p).linkFaults = p.linkFaults := rfl
@[simp] theorem linkFromOutside_link (p : Params) : (linkFromOutside p).drivers.link = .outside := rfl
@[simp] theorem linkFromOutside_executor (p : Params) :
    (linkFromOutside p).drivers.executor = p.drivers.executor := rfl

@[simp] theorem agentTurn_agent (turn : Turn) (s : State) : agentTurn .agent turn s = turn := rfl
@[simp] theorem agentTurn_outside (turn : Turn) (s : State) : agentTurn .outside turn s = .quiet s := rfl

/-! ### Unit C -/

@[simp] theorem clearC_acc (c : UnitC) : (clearC c).acc = 0x0000#16 := rfl
@[simp] theorem updateC_acc (d : Byte) (c : UnitC) : (updateC d c).acc = crcStep c.acc d := rfl

/-! ### Unit E -/

@[simp] theorem beginE_state (cmd : Byte) (e : UnitE) : (beginE cmd e).state = .fill := rfl
@[simp] theorem beginE_cmd (cmd : Byte) (e : UnitE) : (beginE cmd e).cmd = cmd := rfl
@[simp] theorem beginE_len (cmd : Byte) (e : UnitE) : (beginE cmd e).len = 0#8 := rfl
@[simp] theorem beginE_buf (cmd : Byte) (e : UnitE) : (beginE cmd e).buf = e.buf := rfl
@[simp] theorem beginE_acc (cmd : Byte) (e : UnitE) : (beginE cmd e).acc = crcStep 0x0000#16 cmd := rfl
@[simp] theorem beginE_ovf (cmd : Byte) (e : UnitE) : (beginE cmd e).ovf = false := rfl
@[simp] theorem beginE_idx (cmd : Byte) (e : UnitE) : (beginE cmd e).idx = e.idx := rfl

@[simp] theorem closeE_state (e : UnitE) : (closeE e).state = .send := rfl
@[simp] theorem closeE_cmd (e : UnitE) : (closeE e).cmd = e.cmd := rfl
@[simp] theorem closeE_len (e : UnitE) : (closeE e).len = e.len := rfl
@[simp] theorem closeE_buf (e : UnitE) : (closeE e).buf = e.buf := rfl
@[simp] theorem closeE_acc (e : UnitE) : (closeE e).acc = e.acc := rfl
@[simp] theorem closeE_ovf (e : UnitE) : (closeE e).ovf = e.ovf := rfl
@[simp] theorem closeE_idx (e : UnitE) : (closeE e).idx = 0#9 := rfl

@[simp] theorem rejectE_state (e : UnitE) : (rejectE e).state = .idle := rfl
@[simp] theorem rejectE_cmd (e : UnitE) : (rejectE e).cmd = e.cmd := rfl
@[simp] theorem rejectE_len (e : UnitE) : (rejectE e).len = e.len := rfl
@[simp] theorem rejectE_buf (e : UnitE) : (rejectE e).buf = e.buf := rfl
@[simp] theorem rejectE_acc (e : UnitE) : (rejectE e).acc = e.acc := rfl
@[simp] theorem rejectE_ovf (e : UnitE) : (rejectE e).ovf = e.ovf := rfl
@[simp] theorem rejectE_idx (e : UnitE) : (rejectE e).idx = e.idx := rfl

@[simp] theorem popE_state (e : UnitE) : (popE e).state = if isLastByte e then .done else e.state := rfl
@[simp] theorem popE_cmd (e : UnitE) : (popE e).cmd = e.cmd := rfl
@[simp] theorem popE_len (e : UnitE) : (popE e).len = e.len := rfl
@[simp] theorem popE_buf (e : UnitE) : (popE e).buf = e.buf := rfl
@[simp] theorem popE_acc (e : UnitE) : (popE e).acc = e.acc := rfl
@[simp] theorem popE_ovf (e : UnitE) : (popE e).ovf = e.ovf := rfl
@[simp] theorem popE_idx (e : UnitE) : (popE e).idx = e.idx + 1#9 := rfl

@[simp] theorem resendE_state (e : UnitE) : (resendE e).state = .send := rfl
@[simp] theorem resendE_cmd (e : UnitE) : (resendE e).cmd = e.cmd := rfl
@[simp] theorem resendE_len (e : UnitE) : (resendE e).len = e.len := rfl
@[simp] theorem resendE_buf (e : UnitE) : (resendE e).buf = e.buf := rfl
@[simp] theorem resendE_acc (e : UnitE) : (resendE e).acc = e.acc := rfl
@[simp] theorem resendE_ovf (e : UnitE) : (resendE e).ovf = e.ovf := rfl
@[simp] theorem resendE_idx (e : UnitE) : (resendE e).idx = 0#9 := rfl

@[simp] theorem releaseE_state (e : UnitE) : (releaseE e).state = .idle := rfl
@[simp] theorem releaseE_cmd (e : UnitE) : (releaseE e).cmd = e.cmd := rfl
@[simp] theorem releaseE_len (e : UnitE) : (releaseE e).len = e.len := rfl
@[simp] theorem releaseE_buf (e : UnitE) : (releaseE e).buf = e.buf := rfl
@[simp] theorem releaseE_acc (e : UnitE) : (releaseE e).acc = e.acc := rfl
@[simp] theorem releaseE_ovf (e : UnitE) : (releaseE e).ovf = e.ovf := rfl
@[simp] theorem releaseE_idx (e : UnitE) : (releaseE e).idx = e.idx := rfl

/-! ### Unit D -/

@[simp] theorem takeOutcome_state (v : Verdict) (d : UnitD) : (takeOutcome v d).state = .rply := rfl
@[simp] theorem takeOutcome_len (v : Verdict) (d : UnitD) : (takeOutcome v d).len = d.len := rfl
@[simp] theorem takeOutcome_crc (v : Verdict) (d : UnitD) : (takeOutcome v d).crc = d.crc := rfl
@[simp] theorem takeOutcome_cmd (v : Verdict) (d : UnitD) : (takeOutcome v d).cmd = d.cmd := rfl
@[simp] theorem takeOutcome_cnt (v : Verdict) (d : UnitD) : (takeOutcome v d).cnt = d.cnt := rfl
@[simp] theorem takeOutcome_buf (v : Verdict) (d : UnitD) : (takeOutcome v d).buf = d.buf := rfl
@[simp] theorem takeOutcome_acc (v : Verdict) (d : UnitD) : (takeOutcome v d).acc = d.acc := rfl
@[simp] theorem takeOutcome_verdict (v : Verdict) (d : UnitD) : (takeOutcome v d).verdict = v := rfl
@[simp] theorem takeOutcome_reply (v : Verdict) (d : UnitD) : (takeOutcome v d).reply = replyEncode v false := rfl

@[simp] theorem acceptFrame_state (d : UnitD) : (acceptFrame d).state = .exec := rfl
@[simp] theorem acceptFrame_len (d : UnitD) : (acceptFrame d).len = d.len := rfl
@[simp] theorem acceptFrame_crc (d : UnitD) : (acceptFrame d).crc = d.crc := rfl
@[simp] theorem acceptFrame_cmd (d : UnitD) : (acceptFrame d).cmd = d.cmd := rfl
@[simp] theorem acceptFrame_cnt (d : UnitD) : (acceptFrame d).cnt = d.cnt := rfl
@[simp] theorem acceptFrame_buf (d : UnitD) : (acceptFrame d).buf = d.buf := rfl
@[simp] theorem acceptFrame_acc (d : UnitD) : (acceptFrame d).acc = d.acc := rfl
@[simp] theorem acceptFrame_verdict (d : UnitD) : (acceptFrame d).verdict = .accept := rfl
@[simp] theorem acceptFrame_reply (d : UnitD) : (acceptFrame d).reply = d.reply := rfl

@[simp] theorem rxLen_state (b : Byte) (d : UnitD) : (rxLen b d).state = .crcH := rfl
@[simp] theorem rxLen_len (b : Byte) (d : UnitD) : (rxLen b d).len = b := rfl
@[simp] theorem rxLen_crc (b : Byte) (d : UnitD) : (rxLen b d).crc = d.crc := rfl
@[simp] theorem rxLen_cmd (b : Byte) (d : UnitD) : (rxLen b d).cmd = d.cmd := rfl
@[simp] theorem rxLen_cnt (b : Byte) (d : UnitD) : (rxLen b d).cnt = 0#8 := rfl
@[simp] theorem rxLen_buf (b : Byte) (d : UnitD) : (rxLen b d).buf = d.buf := rfl
@[simp] theorem rxLen_acc (b : Byte) (d : UnitD) : (rxLen b d).acc = d.acc := rfl
@[simp] theorem rxLen_verdict (b : Byte) (d : UnitD) : (rxLen b d).verdict = d.verdict := rfl
@[simp] theorem rxLen_reply (b : Byte) (d : UnitD) : (rxLen b d).reply = d.reply := rfl

@[simp] theorem rxCrcH_state (b : Byte) (d : UnitD) : (rxCrcH b d).state = .crcL := rfl
@[simp] theorem rxCrcH_len (b : Byte) (d : UnitD) : (rxCrcH b d).len = d.len := rfl
@[simp] theorem rxCrcH_crc (b : Byte) (d : UnitD) : (rxCrcH b d).crc = b ++ d.crc.extractLsb' 0 8 := rfl
@[simp] theorem rxCrcH_cmd (b : Byte) (d : UnitD) : (rxCrcH b d).cmd = d.cmd := rfl
@[simp] theorem rxCrcH_cnt (b : Byte) (d : UnitD) : (rxCrcH b d).cnt = d.cnt := rfl
@[simp] theorem rxCrcH_buf (b : Byte) (d : UnitD) : (rxCrcH b d).buf = d.buf := rfl
@[simp] theorem rxCrcH_acc (b : Byte) (d : UnitD) : (rxCrcH b d).acc = d.acc := rfl
@[simp] theorem rxCrcH_verdict (b : Byte) (d : UnitD) : (rxCrcH b d).verdict = d.verdict := rfl
@[simp] theorem rxCrcH_reply (b : Byte) (d : UnitD) : (rxCrcH b d).reply = d.reply := rfl

@[simp] theorem rxCrcL_state (b : Byte) (d : UnitD) : (rxCrcL b d).state = .cmd := rfl
@[simp] theorem rxCrcL_len (b : Byte) (d : UnitD) : (rxCrcL b d).len = d.len := rfl
@[simp] theorem rxCrcL_crc (b : Byte) (d : UnitD) : (rxCrcL b d).crc = d.crc.extractLsb' 8 8 ++ b := rfl
@[simp] theorem rxCrcL_cmd (b : Byte) (d : UnitD) : (rxCrcL b d).cmd = d.cmd := rfl
@[simp] theorem rxCrcL_cnt (b : Byte) (d : UnitD) : (rxCrcL b d).cnt = d.cnt := rfl
@[simp] theorem rxCrcL_buf (b : Byte) (d : UnitD) : (rxCrcL b d).buf = d.buf := rfl
@[simp] theorem rxCrcL_acc (b : Byte) (d : UnitD) : (rxCrcL b d).acc = d.acc := rfl
@[simp] theorem rxCrcL_verdict (b : Byte) (d : UnitD) : (rxCrcL b d).verdict = d.verdict := rfl
@[simp] theorem rxCrcL_reply (b : Byte) (d : UnitD) : (rxCrcL b d).reply = d.reply := rfl

@[simp] theorem doneD_state (ok : Bool) (d : UnitD) : (doneD ok d).state = .rply := rfl
@[simp] theorem doneD_len (ok : Bool) (d : UnitD) : (doneD ok d).len = d.len := rfl
@[simp] theorem doneD_crc (ok : Bool) (d : UnitD) : (doneD ok d).crc = d.crc := rfl
@[simp] theorem doneD_cmd (ok : Bool) (d : UnitD) : (doneD ok d).cmd = d.cmd := rfl
@[simp] theorem doneD_cnt (ok : Bool) (d : UnitD) : (doneD ok d).cnt = d.cnt := rfl
@[simp] theorem doneD_buf (ok : Bool) (d : UnitD) : (doneD ok d).buf = d.buf := rfl
@[simp] theorem doneD_acc (ok : Bool) (d : UnitD) : (doneD ok d).acc = d.acc := rfl
@[simp] theorem doneD_verdict (ok : Bool) (d : UnitD) : (doneD ok d).verdict = d.verdict := rfl
@[simp] theorem doneD_reply (ok : Bool) (d : UnitD) : (doneD ok d).reply = replyEncode .accept ok := rfl

@[simp] theorem transmitD_state (d : UnitD) : (transmitD d).state = .len := rfl
@[simp] theorem transmitD_len (d : UnitD) : (transmitD d).len = d.len := rfl
@[simp] theorem transmitD_crc (d : UnitD) : (transmitD d).crc = d.crc := rfl
@[simp] theorem transmitD_cmd (d : UnitD) : (transmitD d).cmd = d.cmd := rfl
@[simp] theorem transmitD_cnt (d : UnitD) : (transmitD d).cnt = d.cnt := rfl
@[simp] theorem transmitD_buf (d : UnitD) : (transmitD d).buf = d.buf := rfl
@[simp] theorem transmitD_acc (d : UnitD) : (transmitD d).acc = d.acc := rfl
@[simp] theorem transmitD_verdict (d : UnitD) : (transmitD d).verdict = d.verdict := rfl
@[simp] theorem transmitD_reply (d : UnitD) : (transmitD d).reply = d.reply := rfl

end Sys2Proof.Machine
end

