-- ==== Sys2Proof/Laws/Units.lean ====
section
/-! SUPPORT. One lemma for each shared operation of the units, saying everything it can do. -/

namespace Sys2Proof.Machine

/-! ### The checksum over a sequence -/

@[simp] theorem crcFold_nil (acc : Half) : crcFold acc [] = acc := rfl

@[simp] theorem crcFold_cons (acc : Half) (d : Byte) (s : List Byte) :
    crcFold acc (d :: s) = crcFold (crcStep acc d) s := rfl

theorem crcFold_append (acc : Half) (s t : List Byte) :
    crcFold acc (s ++ t) = crcFold (crcFold acc s) t := List.foldl_append

theorem crc16_eq_crcFold (s : List Byte) : crc16 s = crcFold 0x0000#16 s := rfl

theorem crc16_append (s t : List Byte) : crc16 (s ++ t) = crcFold (crc16 s) t := crcFold_append _ _ _

/-! ### Unit E -/

/-- E.PUSH either stores the byte and counts it, or only sets `e_ovf` (41_frame_encoder.md R123). -/
theorem pushE_cases (maxPayload d : Byte) (e : UnitE) :
    (e.len.toNat < maxPayload.toNat ∧
      pushE maxPayload d e =
        { e with buf := e.buf.set e.len.toNat d, acc := crcStep e.acc d, len := e.len + 1#8 }) ∨
    (maxPayload.toNat ≤ e.len.toNat ∧ pushE maxPayload d e = { e with ovf := true }) := by
  by_cases h : e.len.toNat < maxPayload.toNat
  · exact .inl ⟨h, by simp [pushE, bufferHasRoom, h]⟩
  · exact .inr ⟨by omega, by simp [pushE, bufferHasRoom, h]⟩

/-- E.END either rejects the frame or makes its first byte the next (41_frame_encoder.md R124). -/
theorem endE_cases (e : UnitE) :
    (e.ovf = true ∧ endStatus e = .reject ∧ endE e = rejectE e) ∨
    (e.ovf = false ∧ endStatus e = .ok ∧ endE e = closeE e) := by
  cases h : e.ovf
  · exact .inr ⟨rfl, by simp [endStatus, h], by simp [endE, h]⟩
  · exact .inl ⟨rfl, by simp [endStatus, h], by simp [endE, h]⟩

theorem isLastByte_iff (e : UnitE) : isLastByte e = true ↔ e.idx.toNat = 3 + e.len.toNat := by
  simp [isLastByte]

theorem isCommand_iff (cmd : Byte) : isCommand cmd = true ↔ cmd = 0x00#8 ∨ cmd = 0x01#8 ∨ cmd = 0x02#8 := by
  simp [isCommand, cmdAbort, cmdLoad, cmdJump, or_assoc]

@[simp] theorem pushAll_nil (maxPayload : Byte) (e : UnitE) : pushAll maxPayload [] e = e := rfl

@[simp] theorem pushAll_cons (maxPayload d : Byte) (p : List Byte) (e : UnitE) :
    pushAll maxPayload (d :: p) e = pushAll maxPayload p (pushE maxPayload d e) := rfl

@[simp] theorem popTimes_zero (s : State) : popTimes 0 s = s := rfl

@[simp] theorem popTimes_succ (n : Nat) (s : State) : popTimes (n + 1) s = popTimes n (popByte s) := rfl

/-- Pops change unit E, the output ports and the bytes in flight towards unit D, nothing else. -/
theorem popTimes_frame (n : Nat) : ∀ s : State,
    (popTimes n s).c = s.c ∧ (popTimes n s).d = s.d ∧ (popTimes n s).params = s.params ∧
    (popTimes n s).link.back = s.link.back ∧ (popTimes n s).producer = s.producer ∧
    (popTimes n s).target = s.target ∧ (popTimes n s).agenda = s.agenda ∧
    (popTimes n s).moves = s.moves ∧ (popTimes n s).tick = s.tick := by
  induction n with
  | zero => intro s; simp
  | succ n ih => intro s; simpa using ih (popByte s)

/-! ### Unit D -/

/-- The completing half of D.RX: with an accepting verdict the command is handed over, with any other the outcome is
taken (42_frame_decoder.md R148). -/
theorem completeD_cases (maxPayload : Byte) (d : UnitD) :
    (verdictOf maxPayload d.len d.crc d.cmd d.acc = .accept ∧ completeD maxPayload d = acceptFrame d) ∨
    (verdictOf maxPayload d.len d.crc d.cmd d.acc ≠ .accept ∧
      completeD maxPayload d = takeOutcome (verdictOf maxPayload d.len d.crc d.cmd d.acc) d) := by
  unfold completeD
  cases verdictOf maxPayload d.len d.crc d.cmd d.acc <;> simp

/-- Completing a frame leaves what was received as it is. -/
theorem completeD_frame (maxPayload : Byte) (d : UnitD) :
    (completeD maxPayload d).len = d.len ∧ (completeD maxPayload d).crc = d.crc ∧
    (completeD maxPayload d).cmd = d.cmd ∧ (completeD maxPayload d).cnt = d.cnt ∧
    (completeD maxPayload d).buf = d.buf ∧ (completeD maxPayload d).acc = d.acc := by
  rcases completeD_cases maxPayload d with ⟨_, h⟩ | ⟨_, h⟩ <;> rw [h] <;> simp

/-- D.RX by `d_state` (42_frame_decoder.md R142). -/
theorem receiveD_cases (maxPayload b : Byte) (d : UnitD) :
    (d.state = .len ∧ receiveD maxPayload b d = rxLen b d) ∨
    (d.state = .crcH ∧ receiveD maxPayload b d = rxCrcH b d) ∨
    (d.state = .crcL ∧ receiveD maxPayload b d = rxCrcL b d) ∨
    (d.state = .cmd ∧ receiveD maxPayload b d = rxCmd maxPayload b d) ∨
    (d.state = .pay ∧ receiveD maxPayload b d = rxPay maxPayload b d) ∨
    ((d.state = .exec ∨ d.state = .rply) ∧ receiveD maxPayload b d = d) := by
  unfold receiveD
  cases d.state <;> simp

@[simp] theorem receiveAll_nil (maxPayload : Byte) (d : UnitD) : receiveAll maxPayload [] d = d := rfl

@[simp] theorem receiveAll_cons (maxPayload b : Byte) (bytes : List Byte) (d : UnitD) :
    receiveAll maxPayload (b :: bytes) d = receiveAll maxPayload bytes (receiveD maxPayload b d) := rfl

theorem receiveAll_append (maxPayload : Byte) (xs ys : List Byte) (d : UnitD) :
    receiveAll maxPayload (xs ++ ys) d = receiveAll maxPayload ys (receiveAll maxPayload xs d) := List.foldl_append

/-! ### A reply read -/

/-- Everything a reply read can do: its value is presented, and a pseudo-operation whose frame unit E holds goes on with
it; with none, or with no frame held, nothing else changes. -/
theorem replyArrives_cases (read : List Byte) (s : State) :
    (∃ job, s.producer.job = some job ∧ s.e.state = .done ∧
      replyArrives read s = handleReply (replyDecode read) job (s.emit (.decoded (replyDecode read)))) ∨
    ((s.producer.job = none ∨ s.e.state ≠ .done) ∧ replyArrives read s = s.emit (.decoded (replyDecode read))) := by
  unfold replyArrives heldEnabled
  cases hj : s.producer.job with
  | none => exact .inr ⟨.inl rfl, rfl⟩
  | some job =>
    by_cases he : s.e.state = .done
    · exact .inl ⟨job, rfl, he, by simp [he]⟩
    · exact .inr ⟨.inr he, by simp [he]⟩

/-! ### The target -/

/-- Whatever the executor reports, the target's memory stays in canonical form. -/
theorem carryOut_mem_wf (cmd : Command) (ok : Bool) (tick : Nat) (t : Target) (h : t.mem.wf = true) :
    (carryOut cmd ok tick t).mem.wf = true := by
  unfold carryOut
  cases cmd with
  | abort => exact Memory.ofCells_wf _
  | load addr data =>
    simp only
    split
    · split
      · exact Memory.writeBytes_wf _ _ h
      · exact Memory.writeSome_wf _ _ h _
    · exact Memory.ofCells_wf _
  | jump addr => exact h

/-- A reset leaves the target as it was, or as a failed command at the executor may have left it. -/
theorem abandonCommand_cases (s : State) :
    (s.d.state = .exec ∧ abandonCommand s = carryOut (commandOf s.d) false s.tick s.target) ∨
    (s.d.state ≠ .exec ∧ abandonCommand s = s.target) := by
  by_cases h : s.d.state = .exec
  · exact .inl ⟨h, if_pos h⟩
  · exact .inr ⟨h, if_neg h⟩

theorem abandonCommand_mem_wf (s : State) (h : s.target.mem.wf = true) : (abandonCommand s).mem.wf = true := by
  rcases abandonCommand_cases s with ⟨_, hs⟩ | ⟨_, hs⟩ <;> rw [hs]
  · exact carryOut_mem_wf _ _ _ _ h
  · exact h

end Sys2Proof.Machine
end

