-- ==== Sys2Proof/Laws/Turns.lean ====
section
/-! SUPPORT. What a turn and a step can come to: one inversion lemma each. -/

namespace Sys2Proof.Machine

/-- An event occurs where it is enabled, and where it is not nothing changes. -/
theorem occurs_cases (isEnabled : Bool) (t s : State) :
    (isEnabled = true ∧ occurs isEnabled t s = .next t) ∨ (isEnabled = false ∧ occurs isEnabled t s = .next s) := by
  cases isEnabled
  · exact .inr ⟨rfl, rfl⟩
  · exact .inl ⟨rfl, rfl⟩

@[simp] theorem occurs_true (t s : State) : occurs true t s = .next t := rfl

@[simp] theorem occurs_false (t s : State) : occurs false t s = .next s := rfl

/-- An offered event either runs, enabled, in the state that has given it up, or its agent waits. -/
theorem offer_cases (i : Instr) (taken waiting : State) :
    (enabled i waiting = true ∧ offer i taken waiting = .run i taken) ∨
    (enabled i waiting = false ∧ offer i taken waiting = .quiet waiting) := by
  unfold offer
  cases enabled i waiting
  · exact .inr ⟨rfl, rfl⟩
  · exact .inl ⟨rfl, rfl⟩

/-- A state that differs from `s` in the bytes in flight and in the agenda only. -/
def sameButQueues (s t : State) : Prop :=
  t = { s with link := t.link, agenda := t.agenda }

theorem sameButQueues_refl (s : State) : sameButQueues s s := rfl

theorem offer_sameButQueues {i j : Instr} {taken waiting t : State} (hs : sameButQueues waiting taken)
    (h : offer j taken waiting = .run i t) : enabled i waiting = true ∧ sameButQueues waiting t := by
  rcases offer_cases j taken waiting with ⟨he, ho⟩ | ⟨_, ho⟩ <;> rw [ho] at h <;> cases h
  exact ⟨he, hs⟩

theorem offer_quiet {j : Instr} {taken waiting t : State} (h : offer j taken waiting = .quiet t) : t = waiting := by
  rcases offer_cases j taken waiting with ⟨_, ho⟩ | ⟨_, ho⟩ <;> rw [ho] at h <;> cases h
  rfl

theorem outsideTurn_run {port : Port} {s t : State} {i : Instr} (h : outsideTurn port s = .run i t) :
    enabled i s = true ∧ sameButQueues s t := by
  unfold outsideTurn at h
  split at h
  · cases h
  · split at h
    · cases h
    · split at h
      · exact offer_sameButQueues (by rfl) h
      · cases h

theorem outsideTurn_quiet {port : Port} {s t : State} (h : outsideTurn port s = .quiet t) : t = s := by
  unfold outsideTurn at h
  split at h
  · cases h; rfl
  · split at h
    · cases h; rfl
    · split at h
      · exact offer_quiet h
      · cases h; rfl

/-- The first stimulus at a port, found past stimuli at other ports. -/
theorem stimulusAt_append {port : Port} {bytes : List Byte} {later : List Stimulus} : ∀ {before : List Stimulus},
    (∀ st ∈ before, st.port ≠ port) →
    stimulusAt port (before ++ { port := port, bytes := bytes } :: later) = some bytes
  | [], _ => by simp [stimulusAt]
  | st :: before, h => by
    have hst : st.port ≠ port := h st (by simp)
    simp only [List.cons_append, stimulusAt, if_neg hst]
    exact stimulusAt_append fun st' h' => h st' (by simp [h'])

/-- What is left of the agenda, stimuli at other ports untouched. -/
theorem agendaAfter_append {port : Port} {bytes left : List Byte} {later : List Stimulus} :
    ∀ {before : List Stimulus}, (∀ st ∈ before, st.port ≠ port) →
    agendaAfter port left (before ++ { port := port, bytes := bytes } :: later) =
      before ++ (if left = [] then later else { port := port, bytes := left } :: later)
  | [], _ => by simp [agendaAfter]
  | st :: before, h => by
    have hst : st.port ≠ port := h st (by simp)
    simp only [List.cons_append, agendaAfter, if_neg hst]
    rw [agendaAfter_append fun st' h' => h st' (by simp [h'])]

theorem agentTurn_run {driver : Driver} {turn : Turn} {s t : State} {i : Instr}
    (h : agentTurn driver turn s = .run i t) : driver = .agent ∧ turn = .run i t := by
  cases driver
  · exact ⟨rfl, h⟩
  · cases h

theorem agentTurn_quiet {driver : Driver} {turn : Turn} {s t : State} (h : agentTurn driver turn s = .quiet t) :
    turn = .quiet t ∨ t = s := by
  cases driver
  · exact .inl h
  · cases h; exact .inr rfl

theorem linkTurn_run {act : LinkAct} {s t : State} {i : Instr} (h : linkTurn act s = .run i t) :
    enabled i s = true ∧ sameButQueues s t := by
  unfold linkTurn at h
  split at h
  · exact offer_sameButQueues (by rfl) h
  · cases h
  · exact offer_sameButQueues (by rfl) h
  · exact offer_sameButQueues (by rfl) h
  · cases h

theorem linkTurn_quiet {act : LinkAct} {s t : State} (h : linkTurn act s = .quiet t) : sameButQueues s t := by
  unfold linkTurn at h
  split at h
  · rw [offer_quiet h]; rfl
  · cases h; rfl
  · rw [offer_quiet h]; rfl
  · rw [offer_quiet h]; rfl
  · cases h; rfl

/-- A read of a reply is enabled in every state. -/
theorem decodeReply_enabled (read : List Byte) (s : State) : enabled (decodeReply read) s = true := by
  unfold decodeReply
  repeat' split
  all_goals rfl

theorem readReply_enabled (b : Byte) (s waiting : State) : enabled (readReply b s) waiting = true := by
  unfold readReply
  split
  · exact decodeReply_enabled _ _
  · rfl

theorem replyTurn_run {act : LinkAct} {s t : State} {i : Instr} (h : replyTurn act s = .run i t) :
    enabled i s = true ∧ sameButQueues s t := by
  unfold replyTurn at h
  split at h
  · exact offer_sameButQueues (by rfl) h
  · cases h
  · exact offer_sameButQueues (by rfl) h
  · exact offer_sameButQueues (by rfl) h
  · cases h

theorem replyTurn_quiet {act : LinkAct} {s t : State} (h : replyTurn act s = .quiet t) : sameButQueues s t := by
  unfold replyTurn at h
  split at h
  · rw [offer_quiet h]; rfl
  · cases h; rfl
  · rw [offer_quiet h]; rfl
  · rw [offer_quiet h]; rfl
  · cases h; rfl

/-- A turn that runs an instruction: it is enabled, and runs in the state after the turn is used up, the queues
apart. -/
theorem turnOf_run {s t : State} {i : Instr} (h : turnOf s = .run i t) :
    enabled i s.takeTurn = true ∧ sameButQueues s.takeTurn t := by
  unfold turnOf at h
  split at h
  · exact outsideTurn_run h
  · exact linkTurn_run (agentTurn_run h).2
  · exact offer_sameButQueues (by rfl) (agentTurn_run h).2
  · exact offer_sameButQueues (by rfl) (agentTurn_run h).2
  · exact replyTurn_run (agentTurn_run h).2
  · cases h

/-- A quiet turn is the block's reset, or changes nothing but the queues. -/
theorem turnOf_quiet {s t : State} (h : turnOf s = .quiet t) :
    (s.move = .reset ∧ t = blockReset s.takeTurn) ∨ sameButQueues s.takeTurn t := by
  unfold turnOf at h
  split at h
  · rw [outsideTurn_quiet h]; exact .inr rfl
  · rcases agentTurn_quiet h with h | rfl
    · exact .inr (linkTurn_quiet h)
    · exact .inr rfl
  · rcases agentTurn_quiet h with h | rfl
    · rw [offer_quiet h]; exact .inr rfl
    · exact .inr rfl
  · rcases agentTurn_quiet h with h | rfl
    · rw [offer_quiet h]; exact .inr rfl
    · exact .inr rfl
  · rcases agentTurn_quiet h with h | rfl
    · exact .inr (replyTurn_quiet h)
    · exact .inr rfl
  · rename_i hm
    cases h
    exact .inl ⟨hm, rfl⟩

/-- Everything a step can do: reset, a turn without an event, or one enabled instruction. -/
theorem step_cases {s t : State} (h : step s = .next t) :
    (s.move = .reset ∧ t = blockReset s.takeTurn) ∨ sameButQueues s.takeTurn t ∨
    ∃ i u, enabled i s.takeTurn = true ∧ sameButQueues s.takeTurn u ∧ exec i u = .next t := by
  unfold step at h
  split at h
  · rename_i u hu
    cases h
    rcases turnOf_quiet hu with h | h
    · exact .inl h
    · exact .inr (.inl h)
  · rename_i i u hu
    obtain ⟨he, hs⟩ := turnOf_run hu
    exact .inr (.inr ⟨i, u, he, hs, h⟩)

end Sys2Proof.Machine
end

