-- ==== Sys2Proof/Tests/Slice0.lean ====
section
/-! SUPPORT. Tests: what the spec's encodings, worked examples and vectors say, and for each statement with hypotheses a
concrete case that meets them. Expected values come from spec/ (the rule or vector is named), never from the model. -/

namespace Sys2Proof.Tests

-- One kernel evaluation at a time: hundreds at once run out of threads under check.sh's memory limit.
set_option Elab.async false

open Sys2Proof Sys2Proof.Machine

/-! ### Helpers -/

/-- The next state of an outcome, if it is one. -/
def nextOf : Host.Outcome State Fault Refusal → Option State
  | .next s => some s
  | .fault _ => none
  | .refused _ => none

/-- One part of the next state. -/
def after {α : Type} (f : State → α) (o : Host.Outcome State Fault Refusal) : Option α := (nextOf o).map f

/-- Reset with MAX_PAYLOAD = 8, the value of programs P4 and P6. -/
def small : State :=
  { State.reset with
    params := { maxPayload := 8#8, linkFaults := .any, drivers := { link := .agent, executor := .agent } }
    e := { State.reset.e with buf := List.replicate 8 0#8 }
    d := { State.reset.d with buf := List.replicate 8 0#8 } }

/-- `small` with another unit E. -/
def withE (f : UnitE → UnitE) : State := { small with e := f small.e }

/-- `small` with another unit D. -/
def withD (f : UnitD → UnitD) : State := { small with d := f small.d }

/-- Unit E emitting the JUMP frame of V22 (04 2A 1F 02 40 00 00 00), its byte at `idx` next. -/
def sending (idx : BitVec 9) : State :=
  withE (fun e => { e with state := .send, cmd := 0x02#8, len := 4#8, acc := 0x2A1F#16, idx := idx,
                           buf := [0x40#8, 0#8, 0#8, 0#8, 0#8, 0#8, 0#8, 0#8] })

/-- Unit E holding the frame of V22 after its last byte, for a producer whose pseudo-operation is `job`. -/
def held (job : Option Job) : State :=
  { withE (fun e => { e with state := .done, cmd := 0x02#8, len := 4#8, acc := 0x2A1F#16, idx := 8#9,
                             buf := [0x40#8, 0#8, 0#8, 0#8, 0#8, 0#8, 0#8, 0#8] }) with
    producer := { job := job, result := none } }

/-- Unit E after E.BEGIN 0x00 and seven pushes of 0x00: the checksum of zeros is 0 (V6). -/
def oneBelowCap : State :=
  withE (fun e => { e with state := .fill, cmd := 0x00#8, len := 7#8, acc := 0x0000#16 })

/-- Unit D with an accepted frame of command `cmd` at the executor: payload 00 00 10 00 DE AD BE EF (P4, V14). -/
def accepted (cmd len : Byte) (crc : Half) : State :=
  withD (fun d => { d with state := .exec, cmd := cmd, len := len, cnt := len, crc := crc, acc := crc,
                           buf := [0#8, 0#8, 0x10#8, 0#8, 0xDE#8, 0xAD#8, 0xBE#8, 0xEF#8] })

/-- Unit D with a reply waiting. -/
def replying (v : Verdict) (r : Byte) : State := withD (fun d => { d with state := .rply, verdict := v, reply := r })

/-- `s` with one stimulus on the agenda, the outside standing for the link and the executor, and its turn at that port. -/
def offered (p : Port) (bytes : List Byte) (s : State) : State :=
  { s with
    params := { s.params with drivers := { link := .outside, executor := .outside } }
    agenda := [{ port := p, bytes := bytes }]
    moves := [.outside p] }

/-- `s` with one move to make. -/
def turn (m : Move) (s : State) : State := { s with moves := [m] }

/-! ### Well-formedness: an ill-formed term for each check -/

theorem test_wf_abort_length : (Instr.abort 1#8 0#16 []).wf = false := by decide
theorem test_wf_load_length : (Instr.load 4#8 0#16 [0#8]).wf = false := by decide
theorem test_wf_jump_length : (Instr.jump 0#8 0#16 [0#8]).wf = false := by decide
theorem test_wf_reserved_length : (Instr.reservedCmd 3#8 1#8 0#16 []).wf = false := by decide
theorem test_wf_reserved_command : (Instr.reservedCmd 2#8 0#8 0#16 []).wf = false := by decide
theorem test_wf_other_reply_undefined :
    (Instr.rplOther [0x4B#8]).wf = false ∧ (Instr.rplOther [0x43#8]).wf = false ∧
    (Instr.rplOther [0x55#8]).wf = false ∧ (Instr.rplOther [0x45#8]).wf = false := by decide

/-! ### Decoding: bytes written out from the spec's encodings (30_encoding.md R71, R74, R78, R86; log 18 for the
pseudo-operations) -/

/-- V21: 01 14 A0 00 AA. -/
theorem test_decode_abort :
    decode .frame [0b00000001#8, 0b00010100#8, 0b10100000#8, 0b00000000#8, 0b10101010#8] =
      .ok (.abort 0x01#8 0x14A0#16 [0xAA#8], []) := by rfl

/-- V25: 08 D9 A4 01 40 00 00 00 DE AD BE EF, and a byte of the next frame behind it. -/
theorem test_decode_load :
    decode .frame [0b00001000#8, 0b11011001#8, 0b10100100#8, 0b00000001#8, 0x40#8, 0#8, 0#8, 0#8,
        0xDE#8, 0xAD#8, 0xBE#8, 0xEF#8, 0x04#8] =
      .ok (.load 0x08#8 0xD9A4#16 [0x40#8, 0#8, 0#8, 0#8, 0xDE#8, 0xAD#8, 0xBE#8, 0xEF#8], [0x04#8]) := by rfl

/-- V22: 04 2A 1F 02 40 00 00 00. -/
theorem test_decode_jump :
    decode .frame [0b00000100#8, 0b00101010#8, 0b00011111#8, 0b00000010#8, 0x40#8, 0#8, 0#8, 0#8] =
      .ok (.jump 0x04#8 0x2A1F#16 [0x40#8, 0#8, 0#8, 0#8], []) := by rfl

/-- V52: 00 30 63 03. -/
theorem test_decode_reserved :
    decode .frame [0b00000000#8, 0b00110000#8, 0b01100011#8, 0b00000011#8] =
      .ok (.reservedCmd 0x03#8 0x00#8 0x3063#16 [], []) := by rfl

theorem test_decode_replies :
    decode .reply [0b01001011#8] = .ok (.rplK, []) ∧ decode .reply [0b01000011#8] = .ok (.rplC, []) ∧
    decode .reply [0b01010101#8] = .ok (.rplU, []) ∧ decode .reply [0b01000101#8] = .ok (.rplE, []) ∧
    decode .reply [0b01101011#8] = .ok (.rplOther [0x6B#8], []) ∧ decode .reply [] = .ok (.rplOther [], []) := by
  refine ⟨rfl, rfl, rfl, rfl, rfl, rfl⟩

theorem test_decode_unit_c :
    decode .cClr [] = .ok (.cClr, []) ∧ decode .cUpd [0b01000000#8] = .ok (.cUpd 0x40#8, []) ∧
    decode .cVal [] = .ok (.cVal, []) := by refine ⟨rfl, rfl, rfl⟩

theorem test_decode_unit_e :
    decode .eBegin [0b00000001#8] = .ok (.eBegin 0x01#8, []) ∧ decode .ePush [0b01000000#8] = .ok (.ePush 0x40#8, []) ∧
    decode .eEnd [] = .ok (.eEnd, []) ∧ decode .ePop [] = .ok (.ePop, []) ∧
    decode .eResend [] = .ok (.eResend, []) ∧ decode .eRelease [] = .ok (.eRelease, []) := by
  refine ⟨rfl, rfl, rfl, rfl, rfl, rfl⟩

theorem test_decode_unit_d_and_r :
    decode .dRx [0b00001000#8] = .ok (.dRx 0x08#8, []) ∧ decode .dDone [0b00000001#8] = .ok (.dDone true, []) ∧
    decode .dDone [0b00000000#8] = .ok (.dDone false, []) ∧ decode .dTx [] = .ok (.dTx, []) ∧
    decode .rDec [0x43#8] = .ok (.rDec [0x43#8], []) := by refine ⟨rfl, rfl, rfl, rfl, rfl⟩

theorem test_decode_pseudo :
    decode .send [0x02#8, 0x40#8, 0#8, 0#8, 0#8] = .ok (.send 0x02#8 [0x40#8, 0#8, 0#8, 0#8], []) ∧
    decode .upload [0#8, 0#8, 0x10#8, 0#8, 0xCA#8] = .ok (.upload 0x00001000#32 [0xCA#8], []) ∧
    decode .boot [0#8, 0#8, 0x10#8, 0#8, 0x40#8, 0#8, 0#8, 0x04#8, 0xFE#8] =
      .ok (.boot 0x00001000#32 0x40000004#32 [0xFE#8], []) := by refine ⟨rfl, rfl, rfl⟩

theorem test_decode_refuses_by_name :
    decode .frame [0x04#8, 0x2A#8, 0x1F#8, 0x02#8, 0x40#8, 0#8, 0#8] = .error .incompleteFrame ∧
    decode .cUpd [] = .error .missingOperand ∧ decode .cClr [0#8] = .error .surplusOperand ∧
    decode .dDone [2#8] = .error .badOperandBit := by refine ⟨rfl, rfl, rfl, rfl⟩

/-- V49's header, 00 10 21 01, as the table's 32-bit word. -/
theorem test_decode_table_word_load :
    decodeTableWord 32 0x00102101 = some (.load 0x00#8 0x1021#16 []) := by decide +kernel

/-- The step after placing the word of ABORT's natural frame, 00 00 00 00, accepts it (V42). -/
theorem test_step_runs_table_word :
    after (fun t => (t.d.state, t.d.verdict)) (step (State.reset.withFetchWord 32 0x00000000)) =
      some (.exec, .accept) := by decide +kernel

/-- The reply 'C' as the first instruction after reset is decoded to CrcError (V70). -/
theorem test_step_runs_table_reply :
    after State.ports (step (State.reset.withFetchWord 8 0x43)) = some [.decoded .crcError] := by decide +kernel

/-! ### Constants -/

/-- Entries 0 to 63 as R101 prints them. -/
def printedTable0 : List Half :=
  [0x0000, 0x1021, 0x2042, 0x3063, 0x4084, 0x50A5, 0x60C6, 0x70E7] ++
  [0x8108, 0x9129, 0xA14A, 0xB16B, 0xC18C, 0xD1AD, 0xE1CE, 0xF1EF] ++
  [0x1231, 0x0210, 0x3273, 0x2252, 0x52B5, 0x4294, 0x72F7, 0x62D6] ++
  [0x9339, 0x8318, 0xB37B, 0xA35A, 0xD3BD, 0xC39C, 0xF3FF, 0xE3DE] ++
  [0x2462, 0x3443, 0x0420, 0x1401, 0x64E6, 0x74C7, 0x44A4, 0x5485] ++
  [0xA56A, 0xB54B, 0x8528, 0x9509, 0xE5EE, 0xF5CF, 0xC5AC, 0xD58D] ++
  [0x3653, 0x2672, 0x1611, 0x0630, 0x76D7, 0x66F6, 0x5695, 0x46B4] ++
  [0xB75B, 0xA77A, 0x9719, 0x8738, 0xF7DF, 0xE7FE, 0xD79D, 0xC7BC]

/-- Entries 64 to 127 as R101 prints them. -/
def printedTable1 : List Half :=
  [0x48C4, 0x58E5, 0x6886, 0x78A7, 0x0840, 0x1861, 0x2802, 0x3823] ++
  [0xC9CC, 0xD9ED, 0xE98E, 0xF9AF, 0x8948, 0x9969, 0xA90A, 0xB92B] ++
  [0x5AF5, 0x4AD4, 0x7AB7, 0x6A96, 0x1A71, 0x0A50, 0x3A33, 0x2A12] ++
  [0xDBFD, 0xCBDC, 0xFBBF, 0xEB9E, 0x9B79, 0x8B58, 0xBB3B, 0xAB1A] ++
  [0x6CA6, 0x7C87, 0x4CE4, 0x5CC5, 0x2C22, 0x3C03, 0x0C60, 0x1C41] ++
  [0xEDAE, 0xFD8F, 0xCDEC, 0xDDCD, 0xAD2A, 0xBD0B, 0x8D68, 0x9D49] ++
  [0x7E97, 0x6EB6, 0x5ED5, 0x4EF4, 0x3E13, 0x2E32, 0x1E51, 0x0E70] ++
  [0xFF9F, 0xEFBE, 0xDFDD, 0xCFFC, 0xBF1B, 0xAF3A, 0x9F59, 0x8F78]

/-- Entries 128 to 191 as R101 prints them. -/
def printedTable2 : List Half :=
  [0x9188, 0x81A9, 0xB1CA, 0xA1EB, 0xD10C, 0xC12D, 0xF14E, 0xE16F] ++
  [0x1080, 0x00A1, 0x30C2, 0x20E3, 0x5004, 0x4025, 0x7046, 0x6067] ++
  [0x83B9, 0x9398, 0xA3FB, 0xB3DA, 0xC33D, 0xD31C, 0xE37F, 0xF35E] ++
  [0x02B1, 0x1290, 0x22F3, 0x32D2, 0x4235, 0x5214, 0x6277, 0x7256] ++
  [0xB5EA, 0xA5CB, 0x95A8, 0x8589, 0xF56E, 0xE54F, 0xD52C, 0xC50D] ++
  [0x34E2, 0x24C3, 0x14A0, 0x0481, 0x7466, 0x6447, 0x5424, 0x4405] ++
  [0xA7DB, 0xB7FA, 0x8799, 0x97B8, 0xE75F, 0xF77E, 0xC71D, 0xD73C] ++
  [0x26D3, 0x36F2, 0x0691, 0x16B0, 0x6657, 0x7676, 0x4615, 0x5634]

/-- Entries 192 to 255 as R101 prints them. -/
def printedTable3 : List Half :=
  [0xD94C, 0xC96D, 0xF90E, 0xE92F, 0x99C8, 0x89E9, 0xB98A, 0xA9AB] ++
  [0x5844, 0x4865, 0x7806, 0x6827, 0x18C0, 0x08E1, 0x3882, 0x28A3] ++
  [0xCB7D, 0xDB5C, 0xEB3F, 0xFB1E, 0x8BF9, 0x9BD8, 0xABBB, 0xBB9A] ++
  [0x4A75, 0x5A54, 0x6A37, 0x7A16, 0x0AF1, 0x1AD0, 0x2AB3, 0x3A92] ++
  [0xFD2E, 0xED0F, 0xDD6C, 0xCD4D, 0xBDAA, 0xAD8B, 0x9DE8, 0x8DC9] ++
  [0x7C26, 0x6C07, 0x5C64, 0x4C45, 0x3CA2, 0x2C83, 0x1CE0, 0x0CC1] ++
  [0xEF1F, 0xFF3E, 0xCF5D, 0xDF7C, 0xAF9B, 0xBFBA, 0x8FD9, 0x9FF8] ++
  [0x6E17, 0x7E36, 0x4E55, 0x5E74, 0x2E93, 0x3EB2, 0x0ED1, 0x1EF0]

theorem test_table_0_to_63 :
    (List.range 64).map (fun i => crcTable (BitVec.ofNat 8 (0 + i))) = printedTable0 := by decide +kernel

theorem test_table_64_to_127 :
    (List.range 64).map (fun i => crcTable (BitVec.ofNat 8 (64 + i))) = printedTable1 := by decide +kernel

theorem test_table_128_to_191 :
    (List.range 64).map (fun i => crcTable (BitVec.ofNat 8 (128 + i))) = printedTable2 := by decide +kernel

theorem test_table_192_to_255 :
    (List.range 64).map (fun i => crcTable (BitVec.ofNat 8 (192 + i))) = printedTable3 := by decide +kernel

/-- V80, R89. -/
theorem test_magic_literals :
    Config.magicRequest = "sL5DdSMmkekro\n".toList.map (fun c => BitVec.ofNat 8 c.toNat) ∧
    Config.magicAck = "z6IHG7cYDID6o\n".toList.map (fun c => BitVec.ofNat 8 c.toNat) := by decide +kernel

/-! ### Unit C: R106 to R108, V3 to V10 -/

/-- V3. -/
theorem test_crc_check_value :
    crc16 [0x31#8, 0x32#8, 0x33#8, 0x34#8, 0x35#8, 0x36#8, 0x37#8, 0x38#8, 0x39#8] = 0x31C3#16 := by decide +kernel

/-- V1, V6, V10. -/
theorem test_crc_messages :
    crc16 [] = 0x0000#16 ∧ crc16 [0#8, 0#8, 0x31#8] = 0x2672#16 ∧
    crc16 [0x01#8, 0x40#8, 0#8, 0#8, 0#8, 0xDE#8, 0xAD#8, 0xBE#8, 0xEF#8] = 0xD9A4#16 := by decide +kernel

/-- V8. -/
theorem test_crc_steps :
    crcStep 0x0001#16 0x00#8 = 0x0100#16 ∧ crcStep 0x8000#16 0x00#8 = 0x9188#16 ∧
    crcStep 0xFFFF#16 0x00#8 = 0xE1F0#16 ∧ crcStep 0x1234#16 0x56#8 = 0x3C40#16 := by decide +kernel

/-- R106's example. -/
theorem test_cclr : after (fun t => t.c.acc) (exec .cClr { small with c := { acc := 0x31C3#16 } }) = some 0x0000#16 := by
  decide +kernel

/-- R107's example. -/
theorem test_cupd :
    after (fun t => t.c.acc) (exec (.cUpd 0x40#8) { small with c := { acc := 0x1021#16 } }) = some 0x7BF5#16 := by
  decide +kernel

/-- V16: the value is presented and the accumulator stays. -/
theorem test_cval :
    after (fun t => (t.ports, t.c.acc)) (exec .cVal { small with c := { acc := 0x2672#16 } }) =
      some ([.crc 0x2672#16], 0x2672#16) := by decide +kernel

/-! ### Unit E: the examples of R122 to R127, V30, V33 -/

/-- R122's example. -/
theorem test_ebegin :
    after (fun t => (t.e.cmd, t.e.len, t.e.ovf, t.e.acc, t.e.state))
        (exec (.eBegin 0x01#8) (withE (fun e => { e with ovf := true, len := 5#8 }))) =
      some (0x01#8, 0#8, false, 0x1021#16, .fill) := by decide +kernel

/-- R122: a command byte of 0x03 is not enabled. -/
theorem test_ebegin_reserved : after id (exec (.eBegin 0x03#8) small) = some small := by decide +kernel

/-- R123's example. -/
theorem test_epush :
    after (fun t => (t.e.buf.take 1, t.e.acc, t.e.len))
        (exec (.ePush 0x40#8) (withE (fun e => { e with state := .fill, cmd := 0x01#8, acc := 0x1021#16 }))) =
      some ([0x40#8], 0x7BF5#16, 1#8) := by decide +kernel

/-- R123: at the cap the byte is dropped and only `e_ovf` changes. -/
theorem test_epush_overflow :
    after (fun t => t.e) (exec (.ePush 0x40#8) (withE (fun e => { e with state := .fill, len := 8#8 }))) =
      some { small.e with state := .fill, len := 8#8, ovf := true } := by decide +kernel

/-- R124's example. -/
theorem test_eend_ok :
    after (fun t => (t.e.state, t.e.idx, t.ports)) (exec .eEnd (withE (fun e => { e with state := .fill, idx := 7#9 }))) =
      some (.send, 0#9, [.status .ok]) := by decide +kernel

/-- V30, R206: the reject writes only `e_state`. -/
theorem test_eend_reject :
    after (fun t => (t.e, t.ports)) (exec .eEnd (withE (fun e => { e with state := .fill, ovf := true, idx := 7#9 }))) =
      some ({ small.e with ovf := true, idx := 7#9 }, [.status .reject]) := by decide +kernel

/-- V33: the second byte of the frame is the high byte of the checksum. -/
theorem test_epop_crc_high :
    after (fun t => (t.ports, t.link.fwd, t.e.idx, t.e.state)) (exec .ePop (sending 1#9)) =
      some ([.wire 0x2A#8 false], [0x2A#8], 2#9, .send) := by decide +kernel

/-- V33: the eighth pop is the last. -/
theorem test_epop_last :
    after (fun t => (t.ports, t.e.idx, t.e.state)) (exec .ePop (sending 7#9)) =
      some ([.wire 0x00#8 true], 8#9, .done) := by decide +kernel

/-- V33. -/
theorem test_eresend :
    after (fun t => (t.e.state, t.e.idx, t.e.acc)) (exec .eResend (held none)) = some (.send, 0#9, 0x2A1F#16) := by
  decide +kernel

/-- R127's example; it is not enabled while the frame is being emitted. -/
theorem test_erelease :
    after (fun t => t.e.state) (exec .eRelease (held none)) = some .idle ∧
    after (fun t => t.e.state) (exec .eRelease (sending 3#9)) = some .send := by decide +kernel

/-! ### Unit D: the trace of V60, the verdicts of V40 to V59, R152, R153 -/

/-- V60: the first payload byte of 04 2A 1F 02 40 00 00 00. -/
theorem test_drx_payload :
    after (fun t => (t.d.buf.take 1, t.d.acc, t.d.cnt, t.d.state))
        (exec (.dRx 0x40#8) (withD (fun d => { d with state := .pay, len := 4#8, cmd := 0x02#8, acc := 0x2042#16 }))) =
      some ([0x40#8], 0x2EA6#16, 1#8, .pay) := by decide +kernel

/-- V60: the last payload byte completes the frame. -/
theorem test_drx_last :
    after (fun t => (t.d.acc, t.d.cnt, t.d.verdict, t.d.state))
        (exec (.dRx 0x00#8) (withD (fun d =>
          { d with state := .pay, len := 4#8, cmd := 0x02#8, acc := 0xF0C5#16, crc := 0x2A1F#16, cnt := 3#8,
                   verdict := .crc }))) = some (0x2A1F#16, 4#8, .accept, .exec) := by decide +kernel

/-- R152's example, both values of `ok`. -/
theorem test_ddone :
    after (fun t => (t.d.reply, t.d.state)) (exec (.dDone true) (accepted 0x02#8 4#8 0x47F0#16)) =
      some (0x4B#8, .rply) ∧
    after (fun t => (t.d.reply, t.d.verdict)) (exec (.dDone false) (accepted 0x02#8 4#8 0x47F0#16)) =
      some (0x45#8, .accept) := by decide +kernel

/-- P4: the executor writes DE AD BE EF to 0x1000 to 0x1003. -/
theorem test_ddone_load_writes :
    after (fun t => t.target) (exec (.dDone true) (accepted 0x01#8 8#8 0x35F0#16)) =
      some { mem := [(0x1000, 0xDE#8), (0x1001, 0xAD#8), (0x1002, 0xBE#8), (0x1003, 0xEF#8)], pc := none } := by
  decide +kernel

/-- R153's example. -/
theorem test_dtx :
    after (fun t => (t.ports, t.link.back, t.d.state)) (exec .dTx (replying .crc 0x43#8)) =
      some ([.reply 0x43#8], [0x43#8], .len) := by decide +kernel

/-! ### The frames: V42, V43, V45, V47, V50, V51, V52, V57; P4 and its variant -/

/-- V43 and V46. -/
theorem test_abort :
    after (fun t => (executorView t.d, commandOf t.d)) (exec (.abort 1#8 0x14A0#16 [0xAA#8]) small) =
      some (some { cmd := 0x00#8, len := 1#8, buf := [0xAA#8] }, .abort) ∧
    after (fun t => (t.d.verdict, t.d.reply)) (exec (.abort 0#8 0x0001#16 []) small) = some (.crc, 0x43#8) := by
  decide +kernel

/-- P4: 08 35 F0 01 00 00 10 00 DE AD BE EF. -/
theorem test_load :
    after (fun t => (executorView t.d).map (fun _ => commandOf t.d))
        (exec (.load 8#8 0x35F0#16 [0#8, 0#8, 0x10#8, 0#8, 0xDE#8, 0xAD#8, 0xBE#8, 0xEF#8]) small) =
      some (some (.load 0x00001000#32 [0xDE#8, 0xAD#8, 0xBE#8, 0xEF#8])) := by decide +kernel

/-- V47, and the variant of P4: 09 DA 36 01 00 00 10 00 01 02 03 04 05 is over-long at MAX_PAYLOAD = 8. -/
theorem test_load_errors :
    after (fun t => (t.d.verdict, t.d.reply)) (exec (.load 3#8 0x6B19#16 [0x40#8, 0#8, 0#8]) small) =
      some (.format, 0x45#8) ∧
    after (fun t => (t.d.verdict, t.d.buf))
        (exec (.load 9#8 0xDA36#16 [0#8, 0#8, 0x10#8, 0#8, 1#8, 2#8, 3#8, 4#8, 5#8]) small) =
      some (.oversize, [0#8, 0#8, 0x10#8, 0#8, 1#8, 2#8, 3#8, 4#8]) := by decide +kernel

/-- V41 and V51. -/
theorem test_jump :
    after (fun t => (executorView t.d).map (fun _ => commandOf t.d)) (exec (.jump 4#8 0x2A1F#16 [0x40#8, 0#8, 0#8, 0#8]) small) =
      some (some (.jump 0x40000000#32)) ∧
    after (fun t => (t.d.verdict, t.d.reply)) (exec (.jump 5#8 0x9A28#16 [0x40#8, 0#8, 0#8, 0#8, 0#8]) small) =
      some (.format, 0x45#8) := by decide +kernel

/-- V52 and V57. -/
theorem test_reserved :
    after (fun t => (t.d.verdict, t.d.reply, t.d.state)) (exec (.reservedCmd 3#8 0#8 0x3063#16 []) small) =
      some (.unknown, 0x55#8, .rply) ∧
    after (fun t => (t.d.verdict, t.d.reply)) (exec (.reservedCmd 3#8 0#8 0x3064#16 []) small) =
      some (.crc, 0x43#8) := by decide +kernel

/-! ### Replies: V70, and what the producer does (R181) -/

/-- V70. -/
theorem test_rdec :
    [[0x4B#8], [0x43#8], [0x55#8], [0x45#8], [0x6B#8], [], [0x4B#8, 0x4B#8]].map
        (fun r => after State.ports (exec (.rDec r) small)) =
      [some [.decoded .success], some [.decoded .crcError], some [.decoded .unknown], some [.decoded .error],
       some [.decoded .unknown], some [.decoded .unknown], some [.decoded .unknown]] := by decide +kernel

theorem test_rplk :
    after (fun t => (t.producer.result, t.e.state)) (exec .rplK (held (some .send))) =
      some (some .sendOk, .idle) := by decide +kernel

/-- P2: the identical bytes again. -/
theorem test_rplc :
    after (fun t => (t.link.fwd, t.producer.job, t.e.state)) (exec .rplC (held (some .send))) =
      some ([0x04#8, 0x2A#8, 0x1F#8, 0x02#8, 0x40#8, 0#8, 0#8, 0#8], some .send, .done) := by decide +kernel

theorem test_rplu :
    after (fun t => (t.producer, t.e.state)) (exec .rplU (held (some .jump))) =
      some ({ job := none, result := some (.jumpFailed .unknown) }, .idle) := by decide +kernel

/-- P6: address reached 0x1008, bytes sent 8. -/
theorem test_rple :
    after State.producer (exec .rplE (held (some (.chunk (List.replicate 13 0#8) 0x1008#32 8 4 none)))) =
      some { job := none, result := some (.uploadFailed .error 0x1008#32 8) } := by decide +kernel

theorem test_rplother :
    after (fun t => (t.producer.result, t.ports)) (exec (.rplOther []) (held (some .send))) =
      some (some (.sendFailed .unknown), [.decoded .unknown]) := by decide +kernel

/-! ### Pseudo-operations: P4, P5 -/

/-- V22. -/
theorem test_send :
    after (fun t => (t.link.fwd, t.producer.job)) (exec (.send 0x02#8 [0x40#8, 0#8, 0#8, 0#8]) small) =
      some ([0x04#8, 0x2A#8, 0x1F#8, 0x02#8, 0x40#8, 0#8, 0#8, 0#8], some .send) := by decide +kernel

/-- P5's shape at MAX_PAYLOAD = 8: nothing is sent. -/
theorem test_send_oversized :
    after (fun t => (t.link.fwd, t.producer.result, t.e.state)) (exec (.send 0x01#8 (List.replicate 9 0#8)) small) =
      some ([], some (.sendFailed .oversized), .idle) := by decide +kernel

/-- P4, frame 1. -/
theorem test_upload :
    after (fun t => t.link.fwd) (exec (.upload 0x1000#32 [0xDE#8, 0xAD#8, 0xBE#8, 0xEF#8, 0xCA#8, 0xFE#8]) small) =
      some [0x08#8, 0x35#8, 0xF0#8, 0x01#8, 0#8, 0#8, 0x10#8, 0#8, 0xDE#8, 0xAD#8, 0xBE#8, 0xEF#8] := by decide +kernel

/-- P4, frame 2, after the 'K' to frame 1. -/
theorem test_upload_next_chunk :
    after (fun t => t.link.fwd)
        (exec .rplK (held (some (.chunk [0xDE#8, 0xAD#8, 0xBE#8, 0xEF#8, 0xCA#8, 0xFE#8] 0x1000#32 0 4 none)))) =
      some [0x06#8, 0x88#8, 0x48#8, 0x01#8, 0#8, 0#8, 0x10#8, 0x04#8, 0xCA#8, 0xFE#8] := by decide +kernel

/-- P4, frame 3. -/
theorem test_boot :
    after (fun t => t.link.fwd) (exec (.boot 0x1000#32 0x1000#32 []) small) =
      some [0x04#8, 0x47#8, 0xF0#8, 0x02#8, 0#8, 0#8, 0x10#8, 0#8] := by decide +kernel

/-! ### Agents -/

/-- P2: the link changes a byte on the way. -/
theorem test_link_delivers_changed :
    after (fun t => (t.d.len, t.link.fwd))
        (step (turn (.link (.deliver 0x01#8)) { small with link := { fwd := [0x08#8, 0xD9#8], back := [] } })) =
      some (0x09#8, [0xD9#8]) := by decide +kernel

/-- Bytes at a port that are no event of it wait there, and nothing occurs (U10, U12, log 10). -/
theorem test_no_event_waits :
    nextOf (step (offered .dDone [7#8] small)) = some { offered .dDone [7#8] small with moves := [], tick := 1 } ∧
    nextOf (step (offered .frame [1#8, 0#8, 0#8, 0#8] small)) =
      some { offered .frame [1#8, 0#8, 0#8, 0#8] small with moves := [], tick := 1 } := by decide +kernel

/-- R213: a port has one driver; the outside's byte at D.RX waits where the link drives it (log 9). -/
theorem test_one_driver :
    after (fun t => (t.d.state, t.agenda.length)) (step { offered .dRx [8#8] small with params := small.params }) =
      some (.len, 1) := by decide +kernel

/-- R180, R173: a producer without a pseudo-operation reads its reply from the link. -/
theorem test_reply_read_from_link :
    after (fun t => (t.ports, t.link.back))
        (step (turn (.producer (.deliver 0#8)) { small with link := { fwd := [], back := [0x43#8, 0x4B#8] } })) =
      some ([.decoded .crcError], [0x4B#8]) := by decide +kernel

/-- R173, R13: with no frame held a reply is decoded, and the SEND that wants to release it waits. -/
theorem test_reply_after_reset :
    after (fun t => (t.ports, t.producer.job, t.e.state))
        (exec .rplK { small with producer := { job := some .send, result := none } }) =
      some ([.decoded .success], some .send, .idle) := by decide +kernel

/-- R63: an event that waits at one unit holds back none at another (log 7). -/
theorem test_units_wait_apart :
    after (fun t => (t.c.acc, t.agenda))
        (step { small with agenda := [{ port := .ePop, bytes := [] }, { port := .cUpd, bytes := [0x31#8] }]
                           moves := [.outside .cUpd] }) =
      some (0x2672#16, [{ port := .ePop, bytes := [] }]) := by decide +kernel

/-! ### Witnesses: a case that meets the hypotheses of each statement that has any, one for each clause -/

/-- `DecodeReadsBackEncode`: well-formed instructions, the second at a port that carries a byte stream. -/
theorem witness_DecodeReadsBackEncode :
    (Instr.boot 0xFFFFFFFF#32 0#32 []).wf = true ∧
    (Instr.load 4#8 0xFFFF#16 [0#8, 0#8, 0#8, 0xFF#8]).wf = true ∧
    (Instr.load 4#8 0xFFFF#16 [0#8, 0#8, 0#8, 0xFF#8]).port ∈
      [Port.frame, Port.cUpd, Port.eBegin, Port.ePush, Port.dRx, Port.dDone] := by decide +kernel

/-- `FrameNeedsFourPlusLenBytes`: the payload lengths 0 and 255, and a frame one byte short. -/
theorem witness_FrameNeedsFourPlusLenBytes :
    ([] : List Byte).length = (0#8 : Byte).toNat ∧ (List.replicate 255 0#8).length = (255#8 : Byte).toNat ∧
    parseFrame 8#8 [1#8, 0x14#8, 0xA0#8, 0#8] = none := by decide +kernel

theorem witness_EncodeLaysOutTheFrame : (List.replicate 255 0#8).length ≤ 255 := by decide +kernel

theorem witness_CrcStepIsParallel : 15 < 16 := by decide

/-- `CrcDetectsShortBursts`: a burst of 16 bits over three bytes, from bit 4 to bit 19, and a one-byte message. -/
theorem witness_CrcDetectsShortBursts :
    (([0x0F#8, 0xFF#8, 0xF0#8] : List Byte) ≠ [0x00#8, 0xFF#8, 0xE0#8] ∧
      ∀ p, messageBit [0x0F#8, 0xFF#8, 0xF0#8] p ≠ messageBit [0x00#8, 0xFF#8, 0xE0#8] p → 4 ≤ p ∧ p < 4 + 16) ∧
    (([0x80#8] : List Byte) ≠ [0x00#8] ∧
      ∀ p, messageBit [0x80#8] p ≠ messageBit [0x00#8] p → 0 ≤ p ∧ p < 0 + 16) := by
  have cut : ∀ (n : Nat) (P : Nat → Prop), (∀ p, p < 8 * n → P p) → (∀ p, n ≤ p / 8 → P p) → ∀ p, P p :=
    fun n P hl hr p => if h : p < 8 * n then hl p h else hr p (by omega)
  refine ⟨⟨by decide, cut 3 _ (by decide) ?_⟩, ⟨by decide, cut 1 _ (by decide) ?_⟩⟩
  all_goals
    intro p hp h
    simp only [messageBit] at h
    rw [List.getD_eq_default _ _ (by simpa using hp), List.getD_eq_default _ _ (by simpa using hp)] at h
    exact absurd rfl h

theorem witness_UnitCComputesCrc16 :
    ∀ i ∈ [Instr.cUpd 0x31#8, Instr.cVal, Instr.cUpd 0x32#8], i = .cVal ∨ ∃ d, i = .cUpd d := by
  simp

theorem witness_EBeginOpensFrame :
    small.e.state = .idle ∧ ((0x02#8 : Byte) = 0x00#8 ∨ (0x02#8 : Byte) = 0x01#8 ∨ (0x02#8 : Byte) = 0x02#8) := by
  decide

/-- `EPushStoresOrOverflows` and `EEndClosesOrRejects`: one byte below the cap, and at the cap with `e_ovf` set. -/
theorem witness_EPushStoresOrOverflows :
    (oneBelowCap.e.state = .fill ∧ oneBelowCap.e.len.toNat < oneBelowCap.params.maxPayload.toNat ∧
      oneBelowCap.e.ovf = false) ∧
    (let s := withE (fun e => { e with state := .fill, len := 8#8, ovf := true })
     s.e.state = .fill ∧ ¬ s.e.len.toNat < s.params.maxPayload.toNat ∧ s.e.ovf = true) := by decide +kernel

theorem witness_EEndClosesOrRejects :
    oneBelowCap.e.state = .fill ∧ oneBelowCap.e.ovf = false ∧
    (withE (fun e => { e with state := .fill, ovf := true })).e.state = .fill := by decide +kernel

theorem witness_EResendAndERelease : (held none).e.state = .done := rfl

/-- Unit E one byte below its cap meets the invariant. -/
theorem oneBelowCap_inv : oneBelowCap.e.Inv oneBelowCap.params.maxPayload :=
  ⟨by decide +kernel, by unfold UnitE.holdsFrame; decide +kernel, by unfold UnitE.holdsFrame; decide +kernel,
   by unfold UnitE.holdsFrame; decide +kernel⟩

theorem witness_EPushAppendsToPayload :
    oneBelowCap.e.Inv oneBelowCap.params.maxPayload ∧ oneBelowCap.e.state = .fill ∧
    oneBelowCap.e.len.toNat < oneBelowCap.params.maxPayload.toNat :=
  ⟨oneBelowCap_inv, by decide +kernel, by decide +kernel⟩

/-- The checksum of V22's frame, in the form the invariant has it. -/
theorem v22_holds (e : UnitE) (h : e = { (sending 0#9).e with state := e.state, idx := e.idx }) :
    e.holdsFrame 8#8 := by
  rw [h]
  refine ⟨rfl, ?_, ?_⟩
  · change 4 ≤ 8; decide
  · change 0x2A1F#16 = crc16 [0x02#8, 0x40#8, 0#8, 0#8, 0#8]; decide +kernel

/-- Unit E emitting the frame of V22 meets the invariant at every index of the frame. -/
theorem sending_inv (idx : BitVec 9) (h : idx.toNat ≤ 7) : (sending idx).e.Inv (sending idx).params.maxPayload where
  depth := rfl
  filling := by intro h'; cases h'
  sending := fun _ => ⟨v22_holds _ rfl, h⟩
  held := by intro h'; cases h'

/-- `EPopEmitsNextByte`: each index its clauses name, the first and the last payload byte included. -/
theorem witness_EPopEmitsNextByte :
    ∀ idx ∈ [0#9, 1#9, 2#9, 3#9, 4#9, 7#9],
      (sending idx).e.Inv (sending idx).params.maxPayload ∧ (sending idx).e.state = .send ∧
      (sending idx).e.idx = idx := by
  intro idx h
  refine ⟨sending_inv idx ?_, rfl, rfl⟩
  revert h idx
  decide

/-- `EncoderEmitsEncode`: an empty payload and one that fills the buffer. -/
theorem witness_EncoderEmitsEncode :
    small.e.state = .idle ∧ small.e.buf.length = small.params.maxPayload.toNat ∧ isCommand 0x02#8 = true ∧
    ([] : List Byte).length ≤ small.params.maxPayload.toNat ∧
    (List.replicate 8 0xFF#8).length ≤ small.params.maxPayload.toNat := by decide +kernel

theorem witness_EncoderRejectsOversize :
    small.e.state = .idle ∧ isCommand 0x00#8 = true ∧
    small.params.maxPayload.toNat < (List.replicate 9 0xFF#8).length := by decide +kernel

/-- Unit E holding the frame of V22 meets the invariant. -/
theorem held_inv (job : Option Job) : (held job).e.Inv (held job).params.maxPayload where
  depth := rfl
  filling := by intro h; cases h
  sending := by intro h; cases h
  held := fun _ => ⟨v22_holds _ rfl, rfl⟩

theorem witness_ResendRepeatsTheFrame :
    (held none).e.Inv (held none).params.maxPayload ∧ (held none).e.state = .done := ⟨held_inv none, rfl⟩

/-- `HeldFrameIsImmutable`: while it is emitted and while it is held. -/
theorem witness_HeldFrameIsImmutable :
    ((sending 7#9).e.state = .send ∧ Instr.ePop.port ≠ .reply ∧ (nextOf (exec .ePop (sending 7#9))).isSome = true) ∧
    ((held none).e.state = .done ∧ Instr.eResend.port ≠ .reply ∧
      (nextOf (exec .eResend (held none))).isSome = true) := by decide +kernel

theorem witness_DRxTakesLenAndCrc :
    (withD (fun d => { d with state := .len })).d.state = .len ∧
    (withD (fun d => { d with state := .crcH })).d.state = .crcH ∧
    (withD (fun d => { d with state := .crcL })).d.state = .crcL := by decide

/-- `DRxTakesCommandAndPayload`: CMD with LEN 0 (V42, accepted; V52, refused) and with LEN 1; the last payload byte but one
and the last of 255. -/
theorem witness_DRxTakesCommandAndPayload :
    ((withD (fun d => { d with state := .cmd })).d.state = .cmd ∧
      (withD (fun d => { d with state := .cmd })).d.len = 0#8) ∧
    verdictOf 8#8 0#8 0x0000#16 0x00#8 (crcStep 0x0000#16 0x00#8) = .accept ∧
    verdictOf 8#8 0#8 0x3063#16 0x03#8 (crcStep 0x0000#16 0x03#8) = .unknown ∧
    ((withD (fun d => { d with state := .cmd, len := 1#8 })).d.state = .cmd ∧
      (withD (fun d => { d with state := .cmd, len := 1#8 })).d.len ≠ 0#8) ∧
    ((withD (fun d => { d with state := .pay, len := 255#8, cnt := 253#8 })).d.state = .pay ∧
      (withD (fun d => { d with state := .pay, len := 255#8, cnt := 253#8 })).d.cnt.toNat + 1 ≠ 255) ∧
    ((withD (fun d => { d with state := .pay, len := 255#8, cnt := 254#8 })).d.state = .pay ∧
      (withD (fun d => { d with state := .pay, len := 255#8, cnt := 254#8 })).d.cnt.toNat + 1 = 255) := by
  decide +kernel

/-- `VerdictIsFirstFailingCheck`: operands of each line, at the boundary values of LEN and CMD, with the verdict the rule
gives them (V45, V54, V55, V52, V47, V50, V51, V42, V44, V41). -/
theorem witness_VerdictIsFirstFailingCheck :
    verdictOf 251#8 8#8 0xD9A4#16 0x01#8 0x9C04#16 = .crc ∧
    verdictOf 251#8 252#8 0x1627#16 0x01#8 0x1627#16 = .oversize ∧
    verdictOf 251#8 255#8 0x2B41#16 0x09#8 0x2B41#16 = .oversize ∧
    verdictOf 251#8 251#8 0x3063#16 0x03#8 0x3063#16 = .unknown ∧
    verdictOf 251#8 3#8 0x6B19#16 0x01#8 0x6B19#16 = .format ∧
    verdictOf 251#8 3#8 0xF0C5#16 0x02#8 0xF0C5#16 = .format ∧
    verdictOf 251#8 5#8 0x9A28#16 0x02#8 0x9A28#16 = .format ∧
    verdictOf 251#8 251#8 0xB92A#16 0x00#8 0xB92A#16 = .accept ∧
    verdictOf 251#8 4#8 0xC4CD#16 0x01#8 0xC4CD#16 = .accept ∧
    verdictOf 251#8 4#8 0x2A1F#16 0x02#8 0x2A1F#16 = .accept := by decide +kernel

theorem witness_DDoneSelectsReply :
    (accepted 0x01#8 8#8 0x35F0#16).d.state = .exec := by decide

/-- `LoadReportStoresData` and `FailedLoadStaysWithinItsAddresses`: P4's first frame, and a LOAD without data. -/
theorem witness_LoadReportStoresData :
    (let s := accepted 0x01#8 8#8 0x35F0#16
     s.d.state = .exec ∧ s.d.cmd = 0x01#8 ∧ (addrField s.d.payload).toNat = 0x1000 ∧
     s.d.payload.drop 4 = [0xDE#8, 0xAD#8, 0xBE#8, 0xEF#8] ∧ 0x1000 + 4 ≤ 2 ^ 32) ∧
    (let s := accepted 0x01#8 4#8 0#16
     s.d.state = .exec ∧ s.d.cmd = 0x01#8 ∧ (addrField s.d.payload).toNat = 0x1000 ∧ s.d.payload.drop 4 = [] ∧
     0x1000 + 0 ≤ 2 ^ 32) := by decide +kernel

theorem witness_FailedLoadStaysWithinItsAddresses :
    (let s := accepted 0x01#8 8#8 0x35F0#16
     s.d.state = .exec ∧ s.d.cmd = 0x01#8 ∧ (addrField s.d.payload).toNat = 0x1000 ∧
     (s.d.payload.drop 4).length = 4 ∧ 0x1000 + 4 ≤ 2 ^ 32) := by decide +kernel

theorem witness_JumpReportStartsExecution :
    (accepted 0x02#8 4#8 0x47F0#16).d.state = .exec ∧ (accepted 0x02#8 4#8 0x47F0#16).d.cmd = 0x02#8 := by decide

theorem witness_DTxSendsReply : (replying .crc 0x43#8).d.state = .rply := by decide

/-- `DecoderComputesParseFrame`: V42 is accepted, V52 is not. -/
theorem witness_DecoderComputesParseFrame :
    small.d.state = .len ∧ small.d.buf.length = small.params.maxPayload.toNat ∧
    (parseFrame small.params.maxPayload [0#8, 0#8, 0#8, 0#8]).map (fun f => (f.rest, f.verdict)) = some ([], .accept) ∧
    (parseFrame small.params.maxPayload [0#8, 0x30#8, 0x63#8, 0x03#8]).map (fun f => (f.rest, f.verdict)) =
      some ([], .unknown) := by decide +kernel

theorem witness_FrameInstructionIsItsBytes :
    (Instr.reservedCmd 0xFF#8 1#8 0x03FF#16 [0#8]).port = .frame ∧
    (Instr.reservedCmd 0xFF#8 1#8 0x03FF#16 [0#8]).wf = true ∧ small.d.state = .len := by decide

/-- The four frame statements: unit D at a frame boundary, and operands of each of their cases at MAX_PAYLOAD = 8. -/
theorem witness_frames_boundary : small.d.state = .len ∧ small.d.buf.length = small.params.maxPayload.toNat := by
  decide

theorem witness_AbortFrameIsHandedOver :
    (0x0001#16 ≠ crc16 [0x00#8]) ∧
    (crc16 (0x00#8 :: List.replicate 9 0#8) = 0x0000#16 ∧ (List.replicate 9 0#8).length = (9#8 : Byte).toNat ∧
      small.params.maxPayload.toNat < (9#8 : Byte).toNat) ∧
    (crc16 (0x00#8 :: List.replicate 8 0#8) = 0x0000#16 ∧ (List.replicate 8 0#8).length = (8#8 : Byte).toNat) := by
  decide +kernel

theorem witness_LoadFrameIsHandedOver :
    (0xC4CE#16 ≠ crc16 [0x01#8, 0x40#8, 0#8, 0#8, 0#8]) ∧
    (crc16 [0x01#8, 0#8, 0#8, 0x10#8, 0#8, 1#8, 2#8, 3#8, 4#8, 5#8] = 0xDA36#16 ∧
      small.params.maxPayload.toNat < (9#8 : Byte).toNat) ∧
    (crc16 [0x01#8, 0x40#8, 0#8, 0#8] = 0x6B19#16 ∧ (3#8 : Byte).toNat < 4) ∧
    (crc16 [0x01#8, 0x40#8, 0#8, 0#8, 0#8] = 0xC4CD#16) := by decide +kernel

theorem witness_JumpFrameIsHandedOver :
    (0x2A1E#16 ≠ crc16 [0x02#8, 0x40#8, 0#8, 0#8, 0#8]) ∧
    ((List.replicate 9 0#8).length = (9#8 : Byte).toNat ∧ small.params.maxPayload.toNat < (9#8 : Byte).toNat) ∧
    (crc16 [0x02#8, 0x40#8, 0#8, 0#8] = 0xF0C5#16 ∧ crc16 [0x02#8, 0x40#8, 0#8, 0#8, 0#8, 0#8] = 0x9A28#16) ∧
    (crc16 [0x02#8, 0x40#8, 0#8, 0#8, 0#8] = 0x2A1F#16) := by decide +kernel

theorem witness_ReservedFrameIsUnknown :
    small.d.state = .len ∧ 3 ≤ (0x03#8 : Byte).toNat ∧ 3 ≤ (0xFF#8 : Byte).toNat ∧
    0x3064#16 ≠ crc16 [0x03#8] ∧ 0x3063#16 = crc16 [0x03#8] ∧ 0x03FF#16 = crc16 [0xFF#8, 0#8] ∧
    small.params.maxPayload.toNat < (9#8 : Byte).toNat := by decide +kernel

theorem witness_EmittedFrameIsNeverDamaged :
    isCommand 0x01#8 = true ∧ (List.replicate 255 0#8).length ≤ (255#8 : Byte).toNat := by decide +kernel

/-- `AcceptedCommandIsStable`: in `D_EXEC` and in `D_RPLY`, for D.RX and for another instruction. -/
theorem witness_AcceptedCommandIsStable :
    ((accepted 0x02#8 4#8 0x47F0#16).d.state = .exec ∧ (Instr.dRx 0#8).port = .dRx ∧
      (nextOf (exec (.dRx 0#8) (accepted 0x02#8 4#8 0x47F0#16))).isSome = true) ∧
    ((replying .crc 0x43#8).d.state = .rply ∧ Instr.dTx.port ≠ .dDone ∧
      (nextOf (exec .dTx (replying .crc 0x43#8))).isSome = true) := by decide +kernel

/-- `UnawaitedReplyIsOnlyDecoded`: no pseudo-operation, and a SEND whose frame a reset took away. -/
theorem witness_UnawaitedReplyIsOnlyDecoded :
    (small.producer.job = none ∧ (Instr.rplOther [0x6B#8]).wf = true) ∧
    ((nextOf (step (turn .reset (held (some .send))))).map (fun t => (t.producer.job, t.e.state))) =
      some (some .send, .idle) := by decide +kernel

theorem witness_ReplyEndsSend :
    (held (some .send)).producer.job = some .send ∧ (held (some .send)).e.state = .done ∧
    (Instr.rplOther []).wf = true := by decide

theorem witness_CrcReplyResendsIdenticalFrame :
    (held (some .jump)).producer.job = some .jump ∧
    (held (some .jump)).e.Inv (held (some .jump)).params.maxPayload ∧ (held (some .jump)).e.state = .done :=
  ⟨rfl, held_inv _, rfl⟩

/-- `SendWritesFrameOrFails` and `SendRetriesUntilSuccess`: a payload that fills the cap, and one byte more. -/
theorem witness_SendWritesFrameOrFails :
    small.producer.job = none ∧ small.e.state = .idle ∧ isCommand 0x01#8 = true ∧
    small.e.buf.length = small.params.maxPayload.toNat ∧
    (List.replicate 8 0#8).length ≤ small.params.maxPayload.toNat ∧
    ¬ (List.replicate 9 0#8).length ≤ small.params.maxPayload.toNat := by decide +kernel

theorem witness_SendRetriesUntilSuccess :
    small.producer.job = none ∧ small.e.state = .idle ∧ isCommand 0x02#8 = true ∧
    small.e.buf.length = small.params.maxPayload.toNat ∧
    (List.replicate 8 0#8).length ≤ small.params.maxPayload.toNat := by decide +kernel

/-- `UploadAndBootWriteFirstFrame`: a cap below 4 and one of 8; the image may be anything. -/
theorem witness_UploadAndBootWriteFirstFrame :
    (let s := { State.reset with params := { State.reset.params with maxPayload := 3#8 }
                                 e := { State.reset.e with buf := [0#8, 0#8, 0#8] } }
     s.producer.job = none ∧ s.e.state = .idle ∧ s.e.buf.length = s.params.maxPayload.toNat ∧
     s.params.maxPayload.toNat < 4) ∧
    (small.producer.job = none ∧ small.e.state = .idle ∧ small.e.buf.length = small.params.maxPayload.toNat ∧
     ¬ small.params.maxPayload.toNat < 4) := by decide +kernel

/-- `UploadSendsConsecutiveChunks` and `BootSendsImageThenJump`: six bytes that end at the top of the address space, two
chunks of at most four. -/
theorem witness_UploadSendsConsecutiveChunks :
    small.producer.job = none ∧ small.e.state = .idle ∧ small.e.buf.length = small.params.maxPayload.toNat ∧
    4 < small.params.maxPayload.toNat ∧ 4 = small.params.maxPayload.toNat - 4 ∧
    2 = ((List.replicate 6 0#8).length + 4 - 1) / 4 ∧
    (0xFFFFFFFA#32).toNat + (List.replicate 6 0#8).length ≤ 2 ^ 32 := by decide +kernel

theorem witness_BootSendsImageThenJump :
    small.producer.job = none ∧ small.e.state = .idle ∧ small.e.buf.length = small.params.maxPayload.toNat ∧
    4 < small.params.maxPayload.toNat ∧ 4 = small.params.maxPayload.toNat - 4 ∧
    0 = (([] : List Byte).length + 4 - 1) / 4 ∧
    (0xFFFFFFFF#32).toNat + ([] : List Byte).length ≤ 2 ^ 32 := by decide +kernel

/-- `UploadStopsAtFailure`: a chunk waiting, and BOOT's JUMP frame waiting. -/
theorem witness_UploadStopsAtFailure :
    ((held (some (.chunk [0#8] 0x1008#32 0 1 none))).producer.job = some (.chunk [0#8] 0x1008#32 0 1 none) ∧
      (held (some (.chunk [0#8] 0x1008#32 0 1 none))).e.state = .done) ∧
    ((held (some .jump)).producer.job = some .jump ∧ (held (some .jump)).e.state = .done) ∧
    (Instr.rplOther [0x6B#8]).wf = true := by decide

/-- `DisabledEventsChangeNothing`: a state for each clause, the lowest reserved command byte among them. -/
theorem witness_DisabledEventsChangeNothing :
    (sending 0#9).e.state ≠ .idle ∧ 0x02 < (0x03#8 : Byte).toNat ∧ small.e.state ≠ .fill ∧ small.e.state ≠ .send ∧
    small.e.state ≠ .done ∧ (accepted 0x02#8 4#8 0x47F0#16).d.state = .exec ∧
    (replying .crc 0x43#8).d.state = .rply ∧ small.d.state ≠ .exec ∧ small.d.state ≠ .rply ∧
    enabled .ePop small = false := by decide

/-- `StepRunsDecodedInstruction`: an enabled instruction that leaves bytes, behind a stimulus at another port; one that
leaves none; one not enabled; one at a port of another driver. -/
theorem witness_StepRunsDecodedInstruction :
    (let s := { offered .dRx [0x08#8, 0xD9#8] small with
       agenda := [{ port := .ePop, bytes := [] }] ++ [{ port := .dRx, bytes := [0x08#8, 0xD9#8] }] }
     s.moves = [.outside .dRx] ∧ (∀ st ∈ [({ port := .ePop, bytes := [] } : Stimulus)], st.port ≠ .dRx) ∧
     (Instr.dRx 0x08#8).wf = true ∧ enabled (.dRx 0x08#8) s = true ∧ outsideDrives .dRx s = true) ∧
    (let s := offered .cClr [] small
     s.moves = [.outside .cClr] ∧ s.agenda = [] ++ [{ port := .cClr, bytes := [] }] ∧ Instr.cClr.wf = true ∧
     enabled .cClr s = true ∧ outsideDrives .cClr s = true) ∧
    (let s := offered .dTx [] small
     s.moves = [.outside .dTx] ∧ s.agenda = [] ++ [{ port := .dTx, bytes := [] }] ∧ enabled .dTx s = false) ∧
    outsideDrives .dRx small = false := by decide +kernel

/-- The bytes of the last witness decode to its instructions; others decode to none. -/
theorem witness_StepRunsDecodedInstruction_decode :
    decode .dRx [0x08#8, 0xD9#8] = .ok (.dRx 0x08#8, [0xD9#8]) ∧ decode .cClr [] = .ok (.cClr, []) ∧
    decode .dTx [] = .ok (.dTx, []) ∧ decode .dDone [2#8] = .error .badOperandBit := ⟨rfl, rfl, rfl, rfl⟩

/-- `small` with these bytes on the link. -/
def onLink (fwd back : List Byte) (s : State) : State := { s with link := { fwd := fwd, back := back } }

/-- `s` with the drivers and the faults of the link as given. -/
def wired (link executor : Driver) (faults : LinkFaults) (s : State) : State :=
  { s with params := { s.params with linkFaults := faults, drivers := { link := link, executor := executor } } }

/-- `AgentsTakeTheirEvents`: a state for each of its clauses. -/
theorem witness_AgentsTakeTheirEvents :
    (let s := turn (.link (.deliver 0xFF#8)) (onLink [0x08#8] [] small)
     s.params.drivers.link = .agent ∧ s.params.linkFaults = .any ∧ s.d.state ≠ .exec ∧ s.d.state ≠ .rply ∧
     s.moves = [.link (.deliver 0xFF#8)] ∧ s.link.fwd = [0x08#8]) ∧
    (let s := turn (.link (.deliver 0#8)) (onLink [0x08#8] [] (replying .crc 0x43#8))
     s.d.state = .rply ∧ LinkAct.deliver 0#8 ≠ .lose ∧ s.moves = [.link (.deliver 0#8)]) ∧
    (let s := turn (.producer (.deliver 0#8)) (onLink [] [0x4B#8] (held (some .send)))
     s.params.drivers.link = .agent ∧ s.params.linkFaults = .any ∧ s.producer.job ≠ none ∧
     s.moves = [.producer (.deliver 0#8)] ∧ s.link.back = [0x4B#8]) ∧
    (let s := turn (.producer (.deliver 0#8)) (onLink [] [0x4B#8] small)
     s.params.drivers.link = .agent ∧ s.params.linkFaults = .any ∧ s.producer.job = none ∧
     s.moves = [.producer (.deliver 0#8)] ∧ s.link.back = [0x4B#8]) ∧
    (let s := turn (.link .lose) (onLink [0x08#8] [0x4B#8] small)
     s.params.drivers.link = .agent ∧ s.params.linkFaults = .any ∧ s.moves = [.link .lose] ∧ s.link.fwd = [0x08#8] ∧
     s.link.back = [0x4B#8]) ∧
    (let s := turn (.link .lose) (wired .agent .agent .corruptOnly small)
     s.params.linkFaults = .corruptOnly ∧ s.moves = [.link .lose]) ∧
    (let s := turn (.executor false) (accepted 0x02#8 4#8 0x47F0#16)
     s.params.drivers.executor = .agent ∧ s.d.state = .exec ∧ s.moves = [.executor false]) ∧
    (let s := turn .replyOut (replying .crc 0x43#8)
     s.params.drivers.link = .agent ∧ s.d.state = .rply ∧ s.moves = [.replyOut]) ∧
    (let s := turn .replyOut (wired .outside .outside .any (replying .crc 0x43#8))
     s.params.drivers.link = .outside ∧ s.params.drivers.executor = .outside ∧ s.moves = [.replyOut]) := by
  decide +kernel

/-- The act of the clause for `corrupt_only` is no delivery. -/
theorem witness_AgentsTakeTheirEvents_act : ∀ mask, LinkAct.lose ≠ .deliver mask := by
  intro _ h
  cases h

/-- `ResetSetsTheThreeValues`: in the middle of a frame, no command at the executor, and with one. -/
theorem witness_ResetSetsTheThreeValues :
    (turn .reset (sending 3#9)).moves = .reset :: [] ∧ (turn .reset (sending 3#9)).d.state ≠ .exec ∧
    (turn .reset (accepted 0x02#8 4#8 0x47F0#16)).moves = .reset :: [] := by decide

/-- The small state meets the invariant. -/
theorem small_inv : small.Inv :=
  ⟨⟨by decide +kernel, by unfold UnitE.holdsFrame; decide +kernel, by unfold UnitE.holdsFrame; decide +kernel,
    by unfold UnitE.holdsFrame; decide +kernel⟩,
   ⟨by decide +kernel, by decide +kernel, by decide +kernel, by decide +kernel, by decide +kernel⟩, by decide +kernel⟩

/-- `StepKeepsInvariant`: a state of the invariant from which a step completes a frame. -/
theorem witness_StepKeepsInvariant :
    (offered .frame [0#8, 0#8, 0#8, 0#8] small).Inv ∧
    (nextOf (step (offered .frame [0#8, 0#8, 0#8, 0#8] small))).isSome = true :=
  ⟨⟨small_inv.encoder, small_inv.decoder, small_inv.memory⟩, by decide +kernel⟩

/-- `OnlyAcceptedFramesReachTarget`: P4's JUMP frame at the executor, which reports success. -/
theorem witness_OnlyAcceptedFramesReachTarget :
    (turn (.executor true) (accepted 0x02#8 4#8 0x47F0#16)).Inv ∧
    (after (fun t => t.target) (step (turn (.executor true) (accepted 0x02#8 4#8 0x47F0#16)))) =
      some { mem := [], pc := some 0x00001000#32 } ∧
    (accepted 0x02#8 4#8 0x47F0#16).target = { mem := [], pc := none } :=
  ⟨⟨small_inv.encoder, ⟨by decide +kernel, by decide +kernel, by decide +kernel, by decide +kernel, by decide +kernel⟩,
    small_inv.memory⟩, by decide +kernel, by decide +kernel⟩

/-- `UnitsShareNoState`: an instruction of every clause, each with a next state that differs. -/
theorem witness_UnitsShareNoState :
    (nextOf (exec (.cUpd 1#8) small)).isSome = true ∧ (nextOf (exec .cVal small)).isSome = true ∧
    (nextOf (exec .ePop (sending 0#9))).isSome = true ∧
    (nextOf (exec (.jump 4#8 0x2A1F#16 [0x40#8, 0#8, 0#8, 0#8]) small)).isSome = true ∧
    (nextOf (exec (.dDone true) (accepted 0x02#8 4#8 0x47F0#16))).isSome = true ∧
    (nextOf (exec .dTx (replying .crc 0x43#8))).isSome = true ∧
    (nextOf (exec .rplK (held (some .send)))).isSome = true := by decide +kernel

/-- `ReplyByteTellsVerdict`: a reply waiting for each verdict's letter. -/
theorem witness_ReplyByteTellsVerdict :
    ∀ p ∈ [(Verdict.crc, 0x43#8), (.unknown, 0x55#8), (.oversize, 0x45#8), (.accept, 0x4B#8), (.accept, 0x45#8)],
      (replying p.1 p.2).Inv ∧ (replying p.1 p.2).d.state = .rply := by
  intro p h
  refine ⟨⟨small_inv.encoder, ⟨by rfl, ?_, ?_, ?_, ?_⟩, small_inv.memory⟩, rfl⟩
  · intro h'; rcases h' with h' | h' | h' <;> cases h'
  · intro h'; cases h'
  · intro h'; cases h'
  · intro _
    revert h p
    decide +kernel

/-- `SendLoadReachesTarget`: four data bytes at the top of the address space with MAX_PAYLOAD = 8. -/
theorem witness_SendLoadReachesTarget :
    let data := [0xDE#8, 0xAD#8, 0xBE#8, 0xEF#8]
    let s : State := { wired .agent .agent .any (offered .send (0x01#8 :: (be32 0xFFFFFFFC#32 ++ data)) small) with
      moves := .outside .send :: (List.replicate (8 + data.length) (.link (.deliver 0#8)) ++
        [.executor true, .replyOut, .producer (.deliver 0#8)]) }
    s.producer.job = none ∧ s.e.state = .idle ∧ s.e.buf.length = s.params.maxPayload.toNat ∧
    s.d.state = .len ∧ s.d.buf.length = s.params.maxPayload.toNat ∧ s.link = { fwd := [], back := [] } ∧
    4 + data.length ≤ s.params.maxPayload.toNat ∧ (0xFFFFFFFC#32).toNat + data.length ≤ 2 ^ 32 ∧
    s.agenda = [{ port := .send, bytes := 0x01#8 :: (be32 0xFFFFFFFC#32 ++ data) }] ∧
    s.params.drivers = { link := .agent, executor := .agent } := by decide +kernel

end Sys2Proof.Tests
end

section
/-! PROOF. The scope statements (00_scope.md R12 to R14): what each instruction may change, what an event that is not
enabled does, and what a step of the outside runs. -/

namespace Sys2Proof.Machine

/-! ### An instruction occurs where it is enabled -/

/-- Everything an instruction can do: some transition where it is enabled, and nothing where it is not (00_scope.md
R13). The rows that test nothing are those whose enabling condition is constantly true. -/
theorem exec_eq_occurs (i : Instr) (s : State) : ∃ t, exec i s = occurs (enabled i s) t s := by
  cases i with
  | abort _ _ _ | load _ _ _ | jump _ _ _ | reservedCmd _ _ _ _ => exact ⟨_, rfl⟩
  | eBegin _ | ePush _ | eEnd | ePop | eResend | eRelease => exact ⟨_, rfl⟩
  | dRx _ | dDone _ | dTx => exact ⟨_, rfl⟩
  | send _ _ | upload _ _ | boot _ _ _ => exact ⟨_, rfl⟩
  | rplK | rplC | rplU | rplE | rplOther _ => exact ⟨_, (occurs_true _ s).symm⟩
  | cClr | cUpd _ | cVal | rDec _ => exact ⟨_, (occurs_true _ s).symm⟩

theorem exec_total (i : Instr) (s : State) : ∃ t, exec i s = .next t := by
  obtain ⟨t, h⟩ := exec_eq_occurs i s
  exact ⟨_, h⟩

theorem exec_of_disabled {i : Instr} {s : State} (h : enabled i s = false) : exec i s = .next s := by
  obtain ⟨t, ht⟩ := exec_eq_occurs i s
  rw [ht, h, occurs_false]

/-! ### Where each event is not enabled -/

theorem isCommand_iff_toNat_le (cmd : Byte) : isCommand cmd = true ↔ cmd.toNat ≤ 0x02 := by
  rw [isCommand_iff]
  bv_omega

theorem beginEnabled_eq_false_iff (cmd : Byte) (e : UnitE) :
    beginEnabled cmd e = false ↔ e.state ≠ .idle ∨ 0x02 < cmd.toNat := by
  rw [← Nat.not_le, ← isCommand_iff_toNat_le]
  simp [beginEnabled, Decidable.imp_iff_not_or]

theorem fillEnabled_eq_false_iff (e : UnitE) : fillEnabled e = false ↔ e.state ≠ .fill := by simp [fillEnabled]

theorem popEnabled_eq_false_iff (e : UnitE) : popEnabled e = false ↔ e.state ≠ .send := by simp [popEnabled]

theorem heldEnabled_eq_false_iff (e : UnitE) : heldEnabled e = false ↔ e.state ≠ .done := by simp [heldEnabled]

theorem rxEnabled_eq_false_iff (d : UnitD) : rxEnabled d = false ↔ d.state = .exec ∨ d.state = .rply := by
  simp [rxEnabled, Decidable.imp_iff_not_or]

theorem doneEnabled_eq_false_iff (d : UnitD) : doneEnabled d = false ↔ d.state ≠ .exec := by simp [doneEnabled]

theorem txEnabled_eq_false_iff (d : UnitD) : txEnabled d = false ↔ d.state ≠ .rply := by simp [txEnabled]

/-- Settles O51: every instruction is an `occurs` of its enabling condition, and each clause names a condition that is
false. -/
theorem disabledEventsChangeNothing : Obligations.DisabledEventsChangeNothing := by
  intro s
  refine ⟨fun i => exec_total i s, ?begin, ?fill, ?pop, ?held, ?rx, ?done, ?tx, fun _ => exec_of_disabled⟩
  case begin => exact fun cmd h => exec_of_disabled ((beginEnabled_eq_false_iff cmd s.e).2 h)
  case fill =>
    intro h
    have hf := (fillEnabled_eq_false_iff s.e).2 h
    exact ⟨fun _ => exec_of_disabled hf, exec_of_disabled hf⟩
  case pop => exact fun h => exec_of_disabled ((popEnabled_eq_false_iff s.e).2 h)
  case held =>
    intro h
    have hf := (heldEnabled_eq_false_iff s.e).2 h
    exact ⟨exec_of_disabled hf, exec_of_disabled hf⟩
  case rx => exact fun h _ => exec_of_disabled ((rxEnabled_eq_false_iff s.d).2 h)
  case done => exact fun h _ => exec_of_disabled ((doneEnabled_eq_false_iff s.d).2 h)
  case tx => exact fun h => exec_of_disabled ((txEnabled_eq_false_iff s.d).2 h)

/-! ### What a producer's operation leaves unchanged -/

/-- `t` is `s` but for what the producer's own operations write: unit E, the output ports, the bytes in flight towards
unit D, and the producer (44_link_protocol.md R181 to R187). -/
def sameButProducer (s t : State) : Prop :=
  t = { s with e := t.e, ports := t.ports, link := { s.link with fwd := t.link.fwd }, producer := t.producer }

theorem sameButProducer_trans {s t u : State} (hst : sameButProducer s t) (htu : sameButProducer t u) :
    sameButProducer s u := htu.trans (by rw [hst])

theorem popTimes_sameButProducer (n : Nat) : ∀ s : State, sameButProducer s (popTimes n s) := by
  induction n with
  | zero => exact fun _ => rfl
  | succ n ih => exact fun s => sameButProducer_trans (t := popByte s) rfl (ih _)

theorem writeFrame_sameButProducer (cmd : Byte) (payload : List Byte) (job : Job) (s : State) :
    sameButProducer s (writeFrame cmd payload job s) := by
  unfold writeFrame
  dsimp only
  split
  · rfl
  · exact sameButProducer_trans (by rfl) (popTimes_sameButProducer _ _)

theorem nextChunk_sameButProducer (image : List Byte) (cur : Addr) (pos : Nat) (entry : Option Addr) (s : State) :
    sameButProducer s (nextChunk image cur pos entry s) := by
  unfold nextChunk
  split
  · exact writeFrame_sameButProducer _ _ _ _
  · cases entry with
    | none => rfl
    | some entry => exact writeFrame_sameButProducer _ _ _ _

theorem jobSucceeded_sameButProducer (job : Job) (s : State) : sameButProducer s (jobSucceeded job s) := by
  cases job with
  | send => rfl
  | chunk image cur pos k entry => exact nextChunk_sameButProducer _ _ _ _ _
  | jump => rfl

theorem handleReply_sameButProducer (r : Reply) (job : Job) (s : State) :
    sameButProducer s (handleReply r job s) := by
  cases r with
  | success => exact sameButProducer_trans (by rfl) (jobSucceeded_sameButProducer _ _)
  | crcError => exact sameButProducer_trans (by rfl) (popTimes_sameButProducer _ _)
  | unknown => rfl
  | error => rfl

theorem replyArrives_sameButProducer (read : List Byte) (s : State) : sameButProducer s (replyArrives read s) := by
  rcases replyArrives_cases read s with ⟨job, _, _, h⟩ | ⟨_, h⟩ <;> rw [h]
  · exact sameButProducer_trans (by rfl) (handleReply_sameButProducer _ _ _)
  · rfl

/-! ### What each port may change -/

/-- `t` is `s` but for what an event at the port may write (00_scope.md R14, 20_memory.md R63). -/
def sameButPort : Port → State → State → Prop
  | .cClr, s, t | .cUpd, s, t => t = { s with c := t.c }
  | .cVal, s, t | .rDec, s, t => t = { s with ports := t.ports }
  | .eBegin, s, t | .ePush, s, t | .eEnd, s, t | .ePop, s, t | .eResend, s, t | .eRelease, s, t =>
    t = { s with e := t.e, ports := t.ports, link := { s.link with fwd := t.link.fwd } }
  | .frame, s, t | .dRx, s, t => t = { s with d := t.d }
  | .dDone, s, t => t = { s with d := t.d, target := t.target }
  | .dTx, s, t => t = { s with d := t.d, ports := t.ports, link := { s.link with back := t.link.back } }
  | .reply, s, t | .send, s, t | .upload, s, t | .boot, s, t => sameButProducer s t

theorem sameButPort_refl (p : Port) (s : State) : sameButPort p s s := by cases p <;> rfl

/-- An event whose transition stays within its port's part does so where it is not enabled too. -/
theorem sameButPort_of_occurs {p : Port} {isEnabled : Bool} {s t u : State} (h : occurs isEnabled u s = .next t)
    (hu : sameButPort p s u) : sameButPort p s t := by
  rcases occurs_cases isEnabled u s with ⟨_, ho⟩ | ⟨_, ho⟩ <;> rw [ho] at h <;> cases h
  · exact hu
  · exact sameButPort_refl p s

/-- Every instruction stays within the part of its port. -/
theorem exec_sameButPort {i : Instr} {s t : State} (h : exec i s = .next t) : sameButPort i.port s t := by
  cases i with
  | abort _ _ _ | load _ _ _ | jump _ _ _ | reservedCmd _ _ _ _ => exact sameButPort_of_occurs h rfl
  | eBegin _ | ePush _ | eEnd | ePop | eResend | eRelease => exact sameButPort_of_occurs h rfl
  | dRx _ | dDone _ | dTx => exact sameButPort_of_occurs h rfl
  | send _ _ => exact sameButPort_of_occurs h (writeFrame_sameButProducer _ _ _ _)
  | upload _ _ | boot _ _ _ => exact sameButPort_of_occurs h (nextChunk_sameButProducer _ _ _ _ _)
  | rplK | rplC | rplU | rplE | rplOther _ => cases h; exact replyArrives_sameButProducer _ _
  | cClr | cUpd _ | cVal | rDec _ => cases h; rfl

/-- Settles O57: each clause is `exec_sameButPort` read at its ports. -/
theorem unitsShareNoState : Obligations.UnitsShareNoState := by
  intro i s t h
  have hport := exec_sameButPort h
  generalize i.port = p at hport
  refine ⟨?_, ?_, ?_, ?_, ?_, ?_, ?_⟩
  all_goals
    intro hp
    cases p <;> simp at hp <;> exact hport

/-! ### The outside's turn -/

theorem move_of_moves {s : State} {m : Move} {moves : List Move} (h : s.moves = m :: moves) : s.move = m := by
  simp [State.move, h]

theorem takeTurn_of_moves {s : State} {m : Move} {moves : List Move} (h : s.moves = m :: moves) :
    s.takeTurn = { s with moves := moves, tick := s.tick + 1 } := by
  simp [State.takeTurn, h]

theorem step_of_run {s t : State} {i : Instr} (h : turnOf s = .run i t) : step s = exec i t := by
  simp [step, h]

theorem step_of_quiet {s t : State} (h : turnOf s = .quiet t) : step s = .next t := by
  simp [step, h]

/-- Using up a turn enables and disables nothing. -/
@[simp] theorem enabled_takeTurn (i : Instr) (s : State) : enabled i s.takeTurn = enabled i s := by
  cases i <;> rfl

/-- Using up a turn hands no port to another driver. -/
@[simp] theorem outsideDrives_takeTurn (port : Port) (s : State) :
    outsideDrives port s.takeTurn = outsideDrives port s := by
  cases port <;> rfl

theorem turnOf_outside {s : State} {port : Port} {moves : List Move} (h : s.moves = .outside port :: moves) :
    turnOf s = outsideTurn port s.takeTurn := by
  simp [turnOf, move_of_moves h]

theorem outsideTurn_of_decode {port : Port} {s : State} {bytes left : List Byte} {i : Instr}
    (hs : stimulusAt port s.agenda = some bytes) (hd : decode port bytes = .ok (i, left)) :
    outsideTurn port s =
      if outsideDrives port s then offer i { s with agenda := agendaAfter port left s.agenda } s else .quiet s := by
  simp [outsideTurn, hs, hd]

theorem outsideTurn_of_decode_error {port : Port} {s : State} {bytes : List Byte} {why : DecodeError}
    (hs : stimulusAt port s.agenda = some bytes) (hd : decode port bytes = .error why) :
    outsideTurn port s = .quiet s := by
  simp [outsideTurn, hs, hd]

/-- Settles O52: the turn is the outside's at that port, and by what its bytes there decode to, whether it drives the
port and whether the event is enabled, it runs the event or is quiet. -/
theorem stepRunsDecodedInstruction : Obligations.StepRunsDecodedInstruction := by
  intro s u port bytes before later moves hm ha hb hu
  have hturn := turnOf_outside hm
  have hs : stimulusAt port s.takeTurn.agenda = some bytes := by
    rw [takeTurn_agenda, ha, stimulusAt_append hb]
  rw [← takeTurn_of_moves hm] at hu
  subst hu
  refine ⟨?runs, ?waits, ?noEvent⟩
  case runs =>
    intro i left hd _ he hdr
    refine step_of_run ?_
    rw [hturn, outsideTurn_of_decode hs hd, outsideDrives_takeTurn, if_pos hdr, offer, enabled_takeTurn, if_pos he,
      takeTurn_agenda, ha, agendaAfter_append hb]
  case waits =>
    intro i left hd hoff
    refine step_of_quiet ?_
    rw [hturn, outsideTurn_of_decode hs hd, offer, enabled_takeTurn, outsideDrives_takeTurn]
    rcases hoff with h | h <;> simp [h]
  case noEvent =>
    intro why hd
    exact step_of_quiet (hturn.trans (outsideTurn_of_decode_error hs hd))

end Sys2Proof.Machine
end

section
/-! PROOF. The invariant of units E and D and of the target's memory: it holds at reset, and every step keeps it
(10_state.md R22 to R36, R40, R44). Each transition of a unit keeps that unit's part of it, from which `exec_inv` and
`step_inv` are put together. -/

namespace Sys2Proof.Machine

/-! ### A stored byte and the checksum -/

/-- Storing the next byte of a message behind those already stored is one byte step of its checksum: what E.PUSH and
D.RX do with a payload byte (41_frame_encoder.md R123, 42_frame_decoder.md R147). -/
theorem crcStep_crc16_take {buf : List Byte} {n : Nat} (cmd d : Byte) (hn : n < buf.length) :
    crcStep (crc16 (cmd :: buf.take n)) d = crc16 (cmd :: (buf.set n d).take (n + 1)) := by
  have hstored : (buf.set n d).take (n + 1) = buf.take n ++ [d] := by
    simp [List.take_add_one, List.take_set_of_le, hn]
  rw [hstored, ← List.cons_append, crc16_append, crcFold_cons, crcFold_nil]

/-! ### Unit E -/

section UnitE

variable {maxPayload : Byte} {e : UnitE}

/-- While unit E is idle only the depth of its buffer matters. -/
theorem UnitE.inv_of_idle (hdepth : e.buf.length = maxPayload.toNat) (hidle : e.state = .idle) :
    e.Inv maxPayload where
  depth := hdepth
  filling := by simp [hidle]
  sending := by simp [hidle]
  held := by simp [hidle]

/-- While a frame is filled, it is described by the registers, and an overflow has left it at the cap. -/
theorem UnitE.inv_of_fill (hdepth : e.buf.length = maxPayload.toNat) (hfill : e.state = .fill)
    (hframe : e.holdsFrame maxPayload) (hovf : e.ovf = true → e.len = maxPayload) : e.Inv maxPayload where
  depth := hdepth
  filling _ := ⟨hframe, hovf⟩
  sending := by simp [hfill]
  held := by simp [hfill]

/-- While a frame is sent, the next byte is one of its `4 + e_len`. -/
theorem UnitE.inv_of_send (hdepth : e.buf.length = maxPayload.toNat) (hsend : e.state = .send)
    (hframe : e.holdsFrame maxPayload) (hidx : e.idx.toNat ≤ 3 + e.len.toNat) : e.Inv maxPayload where
  depth := hdepth
  filling := by simp [hsend]
  sending _ := ⟨hframe, hidx⟩
  held := by simp [hsend]

/-- A frame held until its reply has been sent whole. -/
theorem UnitE.inv_of_done (hdepth : e.buf.length = maxPayload.toNat) (hdone : e.state = .done)
    (hframe : e.holdsFrame maxPayload) (hidx : e.idx.toNat = 4 + e.len.toNat) : e.Inv maxPayload where
  depth := hdepth
  filling := by simp [hdone]
  sending := by simp [hdone]
  held _ := ⟨hframe, hidx⟩

theorem beginE_inv {cmd : Byte} (hcmd : isCommand cmd = true) (he : e.Inv maxPayload) :
    (beginE cmd e).Inv maxPayload :=
  UnitE.inv_of_fill he.depth rfl ⟨hcmd, Nat.zero_le _, rfl⟩ (by simp)

@[simp] theorem pushE_state (maxPayload d : Byte) (e : UnitE) : (pushE maxPayload d e).state = e.state := by
  rcases pushE_cases maxPayload d e with ⟨_, h⟩ | ⟨_, h⟩ <;> rw [h]

/-- E.PUSH stores and sums a byte while there is room, which no overflow has used up; a full frame it only marks
(41_frame_encoder.md R123). -/
theorem pushE_inv (d : Byte) (hfill : e.state = .fill) (he : e.Inv maxPayload) :
    (pushE maxPayload d e).Inv maxPayload := by
  obtain ⟨⟨hcmd, hlen, hacc⟩, hovf⟩ := he.filling hfill
  rcases pushE_cases maxPayload d e with ⟨hroom, h⟩ | ⟨hfull, h⟩ <;> rw [h]
  · have hnext : (e.len + 1#8).toNat = e.len.toNat + 1 := by bv_omega
    have hsum : crcStep e.acc d = crc16 (e.cmd :: (e.buf.set e.len.toNat d).take (e.len + 1#8).toNat) := by
      rw [hnext, hacc]
      exact crcStep_crc16_take _ _ (he.depth ▸ hroom)
    have hclear : e.ovf ≠ true := fun ho => by rw [hovf ho] at hroom; omega
    exact UnitE.inv_of_fill (by simpa using he.depth) hfill ⟨hcmd, by simp only; omega, hsum⟩
      fun ho => absurd ho hclear
  · exact UnitE.inv_of_fill he.depth hfill ⟨hcmd, hlen, hacc⟩ fun _ => BitVec.eq_of_toNat_eq (by simp only; omega)

/-- Unit E stays in E_FILL over any number of pushes and keeps its invariant. -/
theorem pushAll_inv (payload : List Byte) : ∀ {e : UnitE}, e.state = .fill → e.Inv maxPayload →
    (pushAll maxPayload payload e).state = .fill ∧ (pushAll maxPayload payload e).Inv maxPayload := by
  induction payload with
  | nil => exact fun hfill he => ⟨hfill, he⟩
  | cons d payload ih => exact fun hfill he => ih (by simpa using hfill) (pushE_inv d hfill he)

theorem endE_inv (hfill : e.state = .fill) (he : e.Inv maxPayload) : (endE e).Inv maxPayload := by
  rcases endE_cases e with ⟨_, _, h⟩ | ⟨_, _, h⟩ <;> rw [h]
  · exact UnitE.inv_of_idle he.depth rfl
  · exact UnitE.inv_of_send he.depth rfl (he.filling hfill).1 (Nat.zero_le _)

theorem resendE_inv (hdone : e.state = .done) (he : e.Inv maxPayload) : (resendE e).Inv maxPayload :=
  UnitE.inv_of_send he.depth rfl (he.held hdone).1 (Nat.zero_le _)

theorem releaseE_inv (he : e.Inv maxPayload) : (releaseE e).Inv maxPayload := UnitE.inv_of_idle he.depth rfl

/-- The index of a byte within a frame does not wrap around: a frame has at most 259 bytes. -/
theorem popE_idx_toNat (hidx : e.idx.toNat ≤ 3 + e.len.toNat) : (popE e).idx.toNat = e.idx.toNat + 1 := by
  rw [popE_idx]
  bv_omega

/-- E.POP of the last byte ends the emission; any other moves on to a byte of the frame (41_frame_encoder.md R125). -/
theorem popE_inv (hsend : e.state = .send) (he : e.Inv maxPayload) : (popE e).Inv maxPayload := by
  obtain ⟨hframe, hidx⟩ := he.sending hsend
  have hnext := popE_idx_toNat hidx
  by_cases hlast : isLastByte e = true
  · have hidx' := (isLastByte_iff e).1 hlast
    exact UnitE.inv_of_done he.depth (by simp [hlast]) hframe (by rw [hnext, popE_len]; omega)
  · have hidx' := mt (isLastByte_iff e).2 hlast
    exact UnitE.inv_of_send he.depth (by simp [hlast, hsend]) hframe (by rw [hnext, popE_len]; omega)

/-- Pops up to the frame's last byte keep the invariant: until then unit E stays in E_SEND. -/
theorem iterate_popE_inv (n : Nat) : ∀ {e : UnitE}, e.state = .send → e.idx.toNat + n ≤ 4 + e.len.toNat →
    e.Inv maxPayload → (popE^[n] e).Inv maxPayload := by
  induction n with
  | zero => exact fun _ _ he => he
  | succ n ih =>
    intro e hsend hidx he
    rw [Function.iterate_succ_apply]
    by_cases hlast : isLastByte e = true
    · have hidx' := (isLastByte_iff e).1 hlast
      obtain rfl : n = 0 := by omega
      exact popE_inv hsend he
    · have hnext := popE_idx_toNat (he.sending hsend).2
      exact ih (by simp [hlast, hsend]) (by rw [hnext, popE_len]; omega) (popE_inv hsend he)

end UnitE

/-! ### Unit E in a producer's operation -/

theorem popTimes_e (n : Nat) : ∀ s : State, (popTimes n s).e = popE^[n] s.e := by
  induction n with
  | zero => exact fun _ => rfl
  | succ n ih => exact fun s => ih (popByte s)

/-- A whole frame popped from its first byte leaves unit E with its invariant. -/
theorem popFrame_e_inv {maxPayload : Byte} {s : State} (hsend : s.e.state = .send) (hidx : s.e.idx = 0#9)
    (he : s.e.Inv maxPayload) : (popFrame s).e.Inv maxPayload := by
  rw [popFrame, popTimes_e]
  exact iterate_popE_inv _ hsend (by simp [hidx]) he

/-- Writing a frame begins it, pushes its payload and ends it; then it is rejected, or popped whole
(44_link_protocol.md R181). -/
theorem writeFrame_e_inv {cmd : Byte} (payload : List Byte) (job : Job) {s : State} (hcmd : isCommand cmd = true)
    (he : s.e.Inv s.params.maxPayload) : (writeFrame cmd payload job s).e.Inv s.params.maxPayload := by
  obtain ⟨hfill, hfilled⟩ := pushAll_inv payload (beginE_state cmd s.e) (beginE_inv hcmd he)
  have hended := endE_inv hfill hfilled
  unfold writeFrame
  dsimp only
  rcases endE_cases (pushAll s.params.maxPayload payload (beginE cmd s.e)) with ⟨hovf, _, _⟩ | ⟨hovf, _, hclose⟩
  · rw [if_pos hovf]
    exact hended
  · rw [if_neg (by simp [hovf])]
    exact popFrame_e_inv (by simp [hclose]) (by simp [hclose]) hended

/-- The frames an UPLOAD or a BOOT writes are LOAD and JUMP (44_link_protocol.md R184, R186). -/
theorem nextChunk_e_inv (image : List Byte) (cur : Addr) (pos : Nat) (entry : Option Addr) {s : State}
    (he : s.e.Inv s.params.maxPayload) : (nextChunk image cur pos entry s).e.Inv s.params.maxPayload := by
  unfold nextChunk
  split
  · exact writeFrame_e_inv _ _ (by decide) he
  · cases entry with
    | none => exact he
    | some entry => exact writeFrame_e_inv _ _ (by decide) he

theorem jobSucceeded_e_inv (job : Job) {s : State} (he : s.e.Inv s.params.maxPayload) :
    (jobSucceeded job s).e.Inv s.params.maxPayload := by
  cases job with
  | send | jump => exact he
  | chunk image cur pos k entry => exact nextChunk_e_inv _ _ _ _ he

/-- A reply releases the frame unit E holds, or has it sent again (44_link_protocol.md R181). -/
theorem handleReply_e_inv (r : Reply) (job : Job) {s : State} (hdone : s.e.state = .done)
    (he : s.e.Inv s.params.maxPayload) : (handleReply r job s).e.Inv s.params.maxPayload := by
  cases r with
  | success => exact jobSucceeded_e_inv job (s := { s with e := releaseE s.e }) (releaseE_inv he)
  | crcError => exact popFrame_e_inv rfl rfl (resendE_inv hdone he)
  | unknown | error => exact releaseE_inv he

theorem replyArrives_e_inv (read : List Byte) {s : State} (he : s.e.Inv s.params.maxPayload) :
    (replyArrives read s).e.Inv s.params.maxPayload := by
  rcases replyArrives_cases read s with ⟨job, _, hdone, h⟩ | ⟨_, h⟩ <;> rw [h]
  · exact handleReply_e_inv _ job (s := s.emit _) hdone he
  · exact he

/-! ### Unit D -/

section UnitD

variable {maxPayload : Byte} {d : UnitD}

/-- At a frame boundary only the depth of the buffer matters. -/
theorem UnitD.inv_of_len (hdepth : d.buf.length = maxPayload.toNat) (hlen : d.state = .len) : d.Inv maxPayload where
  depth := hdepth
  header := by simp [hlen]
  payload := by simp [hlen]
  accepted := by simp [hlen]
  replying := by simp [hlen]

/-- While the rest of a header is awaited, no payload byte has been counted. -/
theorem UnitD.inv_of_header (hdepth : d.buf.length = maxPayload.toNat) (hcnt : d.cnt = 0#8)
    (hstate : d.state = .crcH ∨ d.state = .crcL ∨ d.state = .cmd) : d.Inv maxPayload where
  depth := hdepth
  header _ := hcnt
  payload := by rcases hstate with h | h | h <;> simp [h]
  accepted := by rcases hstate with h | h | h <;> simp [h]
  replying := by rcases hstate with h | h | h <;> simp [h]

/-- While payload bytes are awaited, the accumulator is the checksum of those stored so far. -/
theorem UnitD.inv_of_pay (hdepth : d.buf.length = maxPayload.toNat) (hpay : d.state = .pay)
    (hcnt : d.cnt.toNat < d.len.toNat)
    (hacc : d.cnt.toNat ≤ maxPayload.toNat → d.acc = crc16 (d.cmd :: d.buf.take d.cnt.toNat)) :
    d.Inv maxPayload where
  depth := hdepth
  header := by simp [hpay]
  payload _ := ⟨hcnt, hacc⟩
  accepted := by simp [hpay]
  replying := by simp [hpay]

/-- A waiting reply belongs to the verdict, with one report of the executor or the other. -/
theorem UnitD.inv_of_rply (hdepth : d.buf.length = maxPayload.toNat) (hrply : d.state = .rply) (ok : Bool)
    (hreply : d.reply = replyEncode d.verdict ok) : d.Inv maxPayload where
  depth := hdepth
  header := by simp [hrply]
  payload := by simp [hrply]
  accepted := by simp [hrply]
  replying _ := by cases ok <;> simp [hreply]

/-- What an accepting verdict says: none of the other lines of R150 holds (42_frame_decoder.md R150). -/
theorem of_verdictOf_eq_accept {len cmd : Byte} {crcRx acc : Half}
    (h : verdictOf maxPayload len crcRx cmd acc = .accept) :
    acc = crcRx ∧ len.toNat ≤ maxPayload.toNat ∧ isCommand cmd = true ∧ (cmd = cmdLoad → 4 ≤ len.toNat) ∧
      (cmd = cmdJump → len = 4#8) := by
  unfold verdictOf at h
  split_ifs at h with hcrc hover hunknown hload hjump
  rw [isCommand_iff_toNat_le]
  refine ⟨by simpa [crcOk] using hcrc, Nat.not_lt.1 hover, Nat.not_lt.1 hunknown, fun hc => ?_, fun hc => ?_⟩
  · exact Nat.not_lt.1 fun hl => hload ⟨hc, hl⟩
  · exact BitVec.eq_of_toNat_eq (by_contra fun hl => hjump ⟨hc, hl⟩)

/-- A frame whose bytes are all counted, with the checksum of its payload if that fits the buffer, is handed over or
refused (42_frame_decoder.md R148). -/
theorem completeD_inv (hdepth : d.buf.length = maxPayload.toNat) (hcnt : d.cnt = d.len)
    (hacc : d.len.toNat ≤ maxPayload.toNat → d.acc = crc16 (d.cmd :: d.payload)) :
    (completeD maxPayload d).Inv maxPayload := by
  rcases completeD_cases maxPayload d with ⟨hv, h⟩ | ⟨_, h⟩ <;> rw [h]
  · obtain ⟨hcrc, hlen, hform⟩ := of_verdictOf_eq_accept hv
    exact {
      depth := hdepth
      header := by simp
      payload := by simp
      accepted := fun _ => ⟨rfl, hcrc, hacc hlen, hlen, hcnt, hform⟩
      replying := by simp }
  · exact UnitD.inv_of_rply hdepth rfl false rfl

theorem rxCmd_inv (b : Byte) (hcmd : d.state = .cmd) (hd : d.Inv maxPayload) :
    (rxCmd maxPayload b d).Inv maxPayload := by
  have hcnt : d.cnt = 0#8 := hd.header (.inr (.inr hcmd))
  unfold rxCmd
  split
  next hlen =>
    exact completeD_inv hd.depth (by simp [hcnt, hlen]) fun _ => by simp [UnitD.payload, hlen, crc16_eq_crcFold]
  next hlen =>
    have hpos : 0 < d.len.toNat := by bv_omega
    exact UnitD.inv_of_pay hd.depth rfl (by simpa [hcnt] using hpos) fun _ => by simp [hcnt, crc16_eq_crcFold]

/-- A payload byte within the buffer is stored and summed; one beyond it is only summed (42_frame_decoder.md R147). -/
theorem rxPay_inv (b : Byte) (hpay : d.state = .pay) (hd : d.Inv maxPayload) :
    (rxPay maxPayload b d).Inv maxPayload := by
  obtain ⟨hcnt, hacc⟩ := hd.payload hpay
  have hnext : (d.cnt + 1#8).toNat = d.cnt.toNat + 1 := by bv_omega
  have hsum (hroom : d.cnt.toNat < maxPayload.toNat) :
      crcStep d.acc b = crc16 (d.cmd :: (d.buf.set d.cnt.toNat b).take (d.cnt.toNat + 1)) := by
    rw [hacc (by omega)]
    exact crcStep_crc16_take _ _ (hd.depth ▸ hroom)
  have hdepth : (if d.cnt.toNat < maxPayload.toNat then d.buf.set d.cnt.toNat b else d.buf).length =
      maxPayload.toNat := by
    split <;> simp [hd.depth]
  unfold rxPay
  dsimp only
  by_cases hlast : d.cnt.toNat + 1 = d.len.toNat
  · rw [if_pos hlast]
    refine completeD_inv hdepth (BitVec.eq_of_toNat_eq (hnext.trans hlast)) fun hlen => ?_
    have hroom : d.cnt.toNat < maxPayload.toNat := by simp only at hlen; omega
    simpa only [UnitD.payload, ← hlast, if_pos hroom] using hsum hroom
  · rw [if_neg hlast]
    refine UnitD.inv_of_pay hdepth hpay (by simp only; omega) fun hle => ?_
    have hroom : d.cnt.toNat < maxPayload.toNat := by simp only at hle; omega
    simpa only [hnext, if_pos hroom] using hsum hroom

theorem receiveD_inv (b : Byte) (hd : d.Inv maxPayload) : (receiveD maxPayload b d).Inv maxPayload := by
  rcases receiveD_cases maxPayload b d with ⟨_, h⟩ | ⟨hs, h⟩ | ⟨hs, h⟩ | ⟨hs, h⟩ | ⟨hs, h⟩ | ⟨_, h⟩ <;> rw [h]
  · exact UnitD.inv_of_header hd.depth rfl (.inl rfl)
  · exact UnitD.inv_of_header hd.depth (hd.header (.inl hs)) (.inr (.inl rfl))
  · exact UnitD.inv_of_header hd.depth (hd.header (.inr (.inl hs))) (.inr (.inr rfl))
  · exact rxCmd_inv b hs hd
  · exact rxPay_inv b hs hd
  · exact hd

theorem receiveAll_inv (bytes : List Byte) : ∀ {d : UnitD}, d.Inv maxPayload →
    (receiveAll maxPayload bytes d).Inv maxPayload := by
  induction bytes with
  | nil => exact fun hd => hd
  | cons b bytes ih => exact fun hd => ih (receiveD_inv b hd)

/-- The report of an accepted command waits as a reply to that verdict (42_frame_decoder.md R152). -/
theorem doneD_inv (ok : Bool) (hexec : d.state = .exec) (hd : d.Inv maxPayload) : (doneD ok d).Inv maxPayload := by
  obtain ⟨hverdict, _⟩ := hd.accepted hexec
  exact UnitD.inv_of_rply hd.depth rfl ok (by simp [hverdict])

end UnitD

/-! ### Every instruction -/

/-- A part of the machine that a producer's operation does not write keeps its invariant; unit E's is to be shown. -/
theorem State.Inv.of_encoder {s t : State} (hs : s.Inv) (h : sameButProducer s t) (he : t.e.Inv s.params.maxPayload) :
    t.Inv := by
  rw [h]
  exact ⟨he, hs.decoder, hs.memory⟩

/-- A frame's arrival writes unit D only, whose invariant is to be shown. -/
theorem State.Inv.of_decoder {s : State} {d : UnitD} (hs : s.Inv) (hd : d.Inv s.params.maxPayload) :
    State.Inv { s with d := d } := ⟨hs.encoder, hd, hs.memory⟩

/-- An event that keeps the invariant where it is enabled keeps it. -/
theorem inv_of_occurs {isEnabled : Bool} {s t u : State} (h : occurs isEnabled u s = .next t) (hs : s.Inv)
    (hu : isEnabled = true → u.Inv) : t.Inv := by
  rcases occurs_cases isEnabled u s with ⟨he, ho⟩ | ⟨_, ho⟩ <;> rw [ho] at h <;> cases h
  · exact hu he
  · exact hs

theorem exec_inv {i : Instr} {s t : State} (h : exec i s = .next t) (hs : s.Inv) : t.Inv := by
  cases i with
  | cClr | cUpd _ | cVal | rDec _ => cases h; exact ⟨hs.encoder, hs.decoder, hs.memory⟩
  | rplK | rplC | rplU | rplE | rplOther _ =>
    cases h
    exact hs.of_encoder (replyArrives_sameButProducer _ _) (replyArrives_e_inv _ hs.encoder)
  | abort _ _ _ | load _ _ _ | jump _ _ _ | reservedCmd _ _ _ _ =>
    exact inv_of_occurs h hs fun _ => hs.of_decoder (receiveAll_inv _ hs.decoder)
  | dRx b => exact inv_of_occurs h hs fun _ => hs.of_decoder (receiveD_inv b hs.decoder)
  | dDone ok =>
    exact inv_of_occurs h hs fun he =>
      ⟨hs.encoder, doneD_inv ok (beq_iff_eq.1 he) hs.decoder, carryOut_mem_wf _ _ _ _ hs.memory⟩
  | dTx => exact inv_of_occurs h hs fun _ => ⟨hs.encoder, UnitD.inv_of_len hs.decoder.depth rfl, hs.memory⟩
  | eBegin cmd =>
    refine inv_of_occurs h hs fun he => hs.of_encoder rfl (beginE_inv ?_ hs.encoder)
    exact (Bool.and_eq_true_iff.1 he).2
  | ePush d => exact inv_of_occurs h hs fun he => hs.of_encoder rfl (pushE_inv d (beq_iff_eq.1 he) hs.encoder)
  | eEnd => exact inv_of_occurs h hs fun he => hs.of_encoder rfl (endE_inv (beq_iff_eq.1 he) hs.encoder)
  | ePop => exact inv_of_occurs h hs fun he => hs.of_encoder rfl (popE_inv (beq_iff_eq.1 he) hs.encoder)
  | eResend => exact inv_of_occurs h hs fun he => hs.of_encoder rfl (resendE_inv (beq_iff_eq.1 he) hs.encoder)
  | eRelease => exact inv_of_occurs h hs fun _ => hs.of_encoder rfl (releaseE_inv hs.encoder)
  | send cmd payload =>
    refine inv_of_occurs h hs fun he =>
      hs.of_encoder (writeFrame_sameButProducer _ _ _ _) (writeFrame_e_inv _ _ ?_ hs.encoder)
    exact (Bool.and_eq_true_iff.1 (Bool.and_eq_true_iff.1 he).2).2
  | upload _ _ | boot _ _ _ =>
    exact inv_of_occurs h hs fun _ =>
      hs.of_encoder (nextChunk_sameButProducer _ _ _ _ _) (nextChunk_e_inv _ _ _ _ hs.encoder)

/-- No port is one at which a parameter is written (70_reset_and_hazards.md R232). -/
theorem params_of_sameButPort {p : Port} {s t : State} (h : sameButPort p s t) : t.params = s.params := by
  cases p <;> exact (congrArg State.params h :)

/-! ### Every step -/

theorem takeTurn_inv {s : State} (hs : s.Inv) : s.takeTurn.Inv := ⟨hs.encoder, hs.decoder, hs.memory⟩

theorem inv_of_sameButQueues {s t : State} (h : sameButQueues s t) (hs : s.Inv) : t.Inv := by
  rw [h]
  exact ⟨hs.encoder, hs.decoder, hs.memory⟩

/-- A reset keeps the depth of the buffers and puts both units where nothing else is claimed of them, whatever the free
values of their registers (70_reset_and_hazards.md R230). -/
theorem blockReset_inv {s : State} (hs : s.Inv) : (blockReset s).Inv where
  encoder := UnitE.inv_of_idle (by simp [blockReset]) rfl
  decoder := UnitD.inv_of_len (by simp [blockReset]) rfl
  memory := abandonCommand_mem_wf s hs.memory

theorem step_inv {s t : State} (h : step s = .next t) (hs : s.Inv) : t.Inv := by
  have hturn := takeTurn_inv hs
  rcases step_cases h with ⟨_, rfl⟩ | hq | ⟨i, u, _, hq, hexec⟩
  · exact blockReset_inv hturn
  · exact inv_of_sameButQueues hq hturn
  · exact exec_inv hexec (inv_of_sameButQueues hq hturn)

theorem step_params {s t : State} (h : step s = .next t) : t.params = s.params := by
  rcases step_cases h with ⟨_, rfl⟩ | hq | ⟨i, u, _, hq, hexec⟩
  · rfl
  · rw [hq]; rfl
  · rw [params_of_sameButPort (exec_sameButPort hexec), hq]; rfl

/-- Settles O56: a step is a reset, a turn without an event, or one instruction, and each keeps the invariant and the
parameters. -/
theorem stepKeepsInvariant : Obligations.StepKeepsInvariant :=
  fun _ _ h => ⟨step_inv h, step_params h⟩

/-- Settles O55: at reset unit E is idle and unit D at a frame boundary, where only the depth of their buffers
counts. -/
theorem resetMeetsInvariant : Obligations.ResetMeetsInvariant where
  encoder := UnitE.inv_of_idle List.length_replicate rfl
  decoder := UnitD.inv_of_len List.length_replicate rfl
  memory := Memory.reset_wf

end Sys2Proof.Machine
end

section
/-! PROOF. Memory and buffers (20_memory.md section 8): what an instruction can do to unit E while it emits or holds a frame,
and to unit D; from these, that the frame sent and the frame received stay as they are. -/

namespace Sys2Proof.Machine

/-! ### The outcome of an event -/

theorem eq_or_of_occurs {isEnabled : Bool} {s t u : State} (h : occurs isEnabled u s = .next t) :
    t = s ∨ (isEnabled = true ∧ t = u) := by
  rcases occurs_cases isEnabled u s with ⟨he, ho⟩ | ⟨_, ho⟩ <;> rw [ho] at h <;> cases h
  · exact .inr ⟨he, rfl⟩
  · exact .inl rfl

theorem eq_of_exec_disabled {i : Instr} {s t : State} (h : exec i s = .next t) (hoff : enabled i s = false) :
    t = s := by
  rw [exec_of_disabled hoff] at h
  cases h
  rfl

/-! ### Unit E while it emits or holds a frame -/

/-- `e` emits a frame (`E_SEND`) or holds one (`E_DONE`) (10_state.md R21). -/
def UnitE.hasFrame (e : UnitE) : Prop := e.state = .send ∨ e.state = .done

section HasFrame

variable {e : UnitE} {s t : State}

theorem UnitE.hasFrame.ne_idle (he : e.hasFrame) : e.state ≠ .idle := by
  rcases he with h | h <;> simp [h]

theorem UnitE.hasFrame.beginEnabled_eq_false (he : e.hasFrame) (cmd : Byte) : beginEnabled cmd e = false :=
  (beginEnabled_eq_false_iff cmd e).2 (.inl he.ne_idle)

theorem UnitE.hasFrame.fillEnabled_eq_false (he : e.hasFrame) : fillEnabled e = false := by
  rw [fillEnabled_eq_false_iff]
  rcases he with h | h <;> simp [h]

theorem UnitE.hasFrame.sendEnabled_eq_false (he : s.e.hasFrame) (cmd : Byte) : sendEnabled cmd s = false := by
  simp [sendEnabled, he.beginEnabled_eq_false]

theorem UnitE.hasFrame.bootEnabled_eq_false (he : s.e.hasFrame) : bootEnabled s = false := by
  simp [bootEnabled, he.ne_idle]

theorem UnitE.hasFrame.image_eq_nil_of_uploadEnabled (he : s.e.hasFrame) {image : List Byte}
    (hup : uploadEnabled image s = true) : image = [] := by
  simpa [uploadEnabled, he.ne_idle] using And.right (Bool.and_eq_true_iff.1 hup)

/-- An UPLOAD of an empty image sends nothing, so that it may run while unit E has a frame (44_link_protocol.md R184). -/
theorem nextChunk_nil_e (cur : Addr) (pos : Nat) (s : State) : (nextChunk [] cur pos none s).e = s.e := rfl

/-- Everything an instruction that is no reply can do to a unit E that has a frame: the three events of that frame
and nothing else (41_frame_encoder.md R125 to R127, R131). -/
theorem exec_e_cases_of_hasFrame {i : Instr} (he : s.e.hasFrame) (hi : i.port ≠ .reply) (h : exec i s = .next t) :
    t.e = s.e ∨ (i = .ePop ∧ t.e = popE s.e) ∨ (i = .eResend ∧ t.e = resendE s.e) ∨
      (i = .eRelease ∧ t.e = releaseE s.e) := by
  cases i with
  | rplK | rplC | rplU | rplE | rplOther _ => exact absurd rfl hi
  | abort _ _ _ | load _ _ _ | jump _ _ _ | reservedCmd _ _ _ _ | dRx _ | dDone _ | dTx =>
    exact .inl (congrArg State.e (exec_sameButPort h) :)
  | cClr | cUpd _ | cVal | rDec _ => exact .inl (congrArg State.e (exec_sameButPort h) :)
  | eBegin cmd => exact .inl (congrArg State.e (eq_of_exec_disabled h (he.beginEnabled_eq_false cmd)))
  | ePush _ | eEnd => exact .inl (congrArg State.e (eq_of_exec_disabled h he.fillEnabled_eq_false))
  | send cmd _ => exact .inl (congrArg State.e (eq_of_exec_disabled h (he.sendEnabled_eq_false cmd)))
  | boot _ _ _ => exact .inl (congrArg State.e (eq_of_exec_disabled h he.bootEnabled_eq_false))
  | upload base image =>
    rcases eq_or_of_occurs h with rfl | ⟨hup, rfl⟩
    · exact .inl rfl
    · rw [he.image_eq_nil_of_uploadEnabled hup]
      exact .inl (nextChunk_nil_e _ _ _)
  | ePop =>
    exact (eq_or_of_occurs h).imp (congrArg State.e) fun ⟨_, ht⟩ => .inl ⟨rfl, congrArg State.e ht⟩
  | eResend =>
    exact (eq_or_of_occurs h).imp (congrArg State.e) fun ⟨_, ht⟩ => .inr (.inl ⟨rfl, congrArg State.e ht⟩)
  | eRelease =>
    exact (eq_or_of_occurs h).imp (congrArg State.e) fun ⟨_, ht⟩ => .inr (.inr ⟨rfl, congrArg State.e ht⟩)

end HasFrame

/-- Settles O24: the frame's own three events write only `e_state` and `e_idx`. -/
theorem heldFrameIsImmutable : Obligations.HeldFrameIsImmutable := by
  intro i s t he hi h
  rcases exec_e_cases_of_hasFrame he hi h with hkeep | ⟨_, hpop⟩ | ⟨_, hresend⟩ | ⟨_, hrelease⟩
  · simp [hkeep]
  · simp [hpop]
  · simp [hresend]
  · simp [hrelease]

/-! ### Unit D -/

/-- Everything an instruction can do to unit D: its own events and a whole frame, each where it is enabled
(42_frame_decoder.md R142, R152, R153, R155). -/
theorem exec_d_cases {i : Instr} {s t : State} (h : exec i s = .next t) :
    t.d = s.d ∨
    (frameEnabled s.d = true ∧ i.port = .frame ∧ t.d = receiveAll s.params.maxPayload (encode i) s.d) ∨
    (∃ b, i = .dRx b ∧ rxEnabled s.d = true ∧ t.d = receiveD s.params.maxPayload b s.d) ∨
    (∃ ok, i = .dDone ok ∧ doneEnabled s.d = true ∧ t.d = doneD ok s.d) ∨
    (i = .dTx ∧ txEnabled s.d = true ∧ t.d = transmitD s.d) := by
  cases i with
  | abort _ _ _ | load _ _ _ | jump _ _ _ | reservedCmd _ _ _ _ =>
    exact (eq_or_of_occurs h).imp (congrArg State.d) fun ⟨hon, ht⟩ => .inl ⟨hon, rfl, congrArg State.d ht⟩
  | dRx b =>
    exact (eq_or_of_occurs h).imp (congrArg State.d) fun ⟨hon, ht⟩ => .inr (.inl ⟨b, rfl, hon, congrArg State.d ht⟩)
  | dDone ok =>
    exact (eq_or_of_occurs h).imp (congrArg State.d) fun ⟨hon, ht⟩ =>
      .inr (.inr (.inl ⟨ok, rfl, hon, congrArg State.d ht⟩))
  | dTx =>
    exact (eq_or_of_occurs h).imp (congrArg State.d) fun ⟨hon, ht⟩ =>
      .inr (.inr (.inr ⟨rfl, hon, congrArg State.d ht⟩))
  | eBegin _ | ePush _ | eEnd | ePop | eResend | eRelease => exact .inl (congrArg State.d (exec_sameButPort h) :)
  | cClr | cUpd _ | cVal | rDec _ => exact .inl (congrArg State.d (exec_sameButPort h) :)
  | rplK | rplC | rplU | rplE | rplOther _ => exact .inl (congrArg State.d (exec_sameButPort h) :)
  | send _ _ | upload _ _ | boot _ _ _ => exact .inl (congrArg State.d (exec_sameButPort h) :)

theorem enabled_of_port_dRx {i : Instr} (hi : i.port = .dRx) (s : State) : enabled i s = rxEnabled s.d := by
  cases i with
  | dRx b => rfl
  | _ => cases hi

/-- Where unit D takes no byte it takes no frame (42_frame_decoder.md R142, R155). -/
theorem rxEnabled_of_frameEnabled {d : UnitD} (h : frameEnabled d = true) : rxEnabled d = true := by
  have hlen : d.state = .len := beq_iff_eq.1 h
  simp [rxEnabled, hlen]

/-- Everything an instruction can do to unit D with a command at the executor or a reply waiting: the executor's report,
or the reply's sending (42_frame_decoder.md R142, R152, R153). -/
theorem exec_d_cases_of_busy {i : Instr} {s t : State} (hbusy : s.d.state = .exec ∨ s.d.state = .rply)
    (h : exec i s = .next t) :
    t.d = s.d ∨ (∃ ok, i = .dDone ok ∧ t.d = doneD ok s.d) ∨ (s.d.state = .rply ∧ t.d = transmitD s.d) := by
  have hrx : ¬rxEnabled s.d = true := Bool.eq_false_iff.1 ((rxEnabled_eq_false_iff s.d).2 hbusy)
  rcases exec_d_cases h with hkeep | ⟨hframe, _⟩ | ⟨_, _, hon, _⟩ | ⟨ok, hi, _, hdone⟩ | ⟨_, hon, htx⟩
  · exact .inl hkeep
  · exact absurd (rxEnabled_of_frameEnabled hframe) hrx
  · exact absurd hon hrx
  · exact .inr (.inl ⟨ok, hi, hdone⟩)
  · exact .inr (.inr ⟨beq_iff_eq.1 hon, htx⟩)

/-- Settles O40: the report writes the reply and `d_state`, the reply's sending `d_state` alone and only in `D_RPLY`, and
D.RX is not enabled. -/
theorem acceptedCommandIsStable : Obligations.AcceptedCommandIsStable := by
  intro i s t hbusy h
  have hrx (hi : i.port = .dRx) : t = s :=
    eq_of_exec_disabled h ((enabled_of_port_dRx hi s).trans ((rxEnabled_eq_false_iff s.d).2 hbusy))
  rcases exec_d_cases_of_busy hbusy h with hkeep | ⟨ok, rfl, hdone⟩ | ⟨hrply, htx⟩
  · simpa [hkeep] using hrx
  · simp [hdone, Instr.port]
  · simpa [htx, hrply] using hrx

end Sys2Proof.Machine
end

section
/-! PROOF. Encodings (30_encoding.md): each decoder reads back what the encoder writes at its port, and the words of the
opcode table decode by their fields. -/

namespace Sys2Proof

/-! ### Byte order -/

/-- Two adjacent bytes of a word, the more significant first, are its 16-bit field there (20_memory.md R51). -/
theorem fromBe16_extractLsb' {w : Nat} (v : BitVec w) (n : Nat) :
    fromBe16 (v.extractLsb' (n + 8) 8) (v.extractLsb' n 8) = v.extractLsb' n 16 :=
  BitVec.extractLsb'_append_extractLsb'_eq_extractLsb' rfl

theorem fromBe32_extractLsb' (v : Addr) :
    fromBe32 (v.extractLsb' 24 8) (v.extractLsb' 16 8) (v.extractLsb' 8 8) (v.extractLsb' 0 8) = v := by
  unfold fromBe32
  rw [BitVec.extractLsb'_append_extractLsb'_eq_extractLsb' (by rfl : 24 = 16 + 8),
    BitVec.extractLsb'_append_extractLsb'_eq_extractLsb' (by rfl : 16 = 8 + 8),
    BitVec.extractLsb'_append_extractLsb'_eq_extractLsb' (by rfl : 8 = 0 + 8)]
  exact BitVec.extractLsb'_eq_self

/-! ### Frames -/

theorem lenMatches_iff (len : Byte) (payload : List Byte) :
    lenMatches len payload = true ↔ payload.length = len.toNat := beq_iff_eq

/-- A command byte past the three commands names RESERVED_CMD (30_encoding.md R74, 42_frame_decoder.md R161). -/
theorem frameInstr_of_reserved {cmd : Byte} (hcmd : 3 ≤ cmd.toNat) (len : Byte) (crc : Half) (payload : List Byte) :
    frameInstr cmd len crc payload = .reservedCmd cmd len crc payload := by
  have hne (b : Byte) (hb : b.toNat < 3) : cmd ≠ b := by
    rintro rfl
    omega
  unfold frameInstr
  rw [if_neg (hne cmdAbort (by decide)), if_neg (hne cmdLoad (by decide)), if_neg (hne cmdJump (by decide))]

/-- The frame decoder takes LEN payload bytes and leaves the rest (30_encoding.md R71, R72). -/
theorem decodeFrame_cons {len : Byte} {payload : List Byte} (hlen : payload.length = len.toNat) (hi lo cmd : Byte)
    (later : List Byte) :
    decodeFrame (len :: hi :: lo :: cmd :: (payload ++ later)) =
      .ok (frameInstr cmd len (fromBe16 hi lo) payload, later) := by
  have hthere : ¬(payload ++ later).length < len.toNat := by
    rw [List.length_append]
    omega
  simp only [decodeFrame, if_neg hthere, List.take_left' hlen, List.drop_left' hlen]

theorem decodeFrame_frameWire {len : Byte} {payload : List Byte} (hlen : lenMatches len payload = true) (cmd : Byte)
    (crc : Half) (later : List Byte) :
    decodeFrame (frameWire cmd len crc payload ++ later) = .ok (frameInstr cmd len crc payload, later) := by
  have hcrc : fromBe16 (crc.extractLsb' 8 8) (crc.extractLsb' 0 8) = crc :=
    (fromBe16_extractLsb' crc 0).trans BitVec.extractLsb'_eq_self
  exact (decodeFrame_cons ((lenMatches_iff len payload).1 hlen) _ _ cmd later).trans (by rw [hcrc])

/-! ### Replies, reports and pseudo-operations -/

/-- A reply read that is none of the four defined replies is RPL_OTHER (43_reply_codec.md R172). -/
theorem decodeReply_of_undefined {read : List Byte} (h : isDefinedReply read = false) :
    decodeReply read = .rplOther read := by
  simp only [isDefinedReply, Bool.or_eq_false_iff, beq_eq_false_iff_ne] at h
  obtain ⟨⟨⟨hK, hC⟩, hU⟩, hE⟩ := h
  exact (if_neg hK).trans ((if_neg hC).trans ((if_neg hU).trans (if_neg hE)))

theorem decodeDone_operand (ok : Bool) (later : List Byte) :
    decodeDone ((if ok then 1#8 else 0#8) :: later) = .ok (.dDone ok, later) := by
  cases ok <;> rfl

theorem decodeUpload_be32 (base : Addr) (image : List Byte) :
    decodeUpload (be32 base ++ image) = .ok (.upload base image, []) := by
  simp only [be32, List.cons_append, List.nil_append, decodeUpload, fromBe32_extractLsb']

theorem decodeBoot_be32 (base entry : Addr) (image : List Byte) :
    decodeBoot (be32 base ++ be32 entry ++ image) = .ok (.boot base entry image, []) := by
  simp only [be32, List.cons_append, List.nil_append, decodeBoot, fromBe32_extractLsb']

/-! ### Every instruction -/

/-- The ports whose bytes are a stream, of which one event takes its own bytes from the front. -/
def streamPorts : List Port := [.frame, .cUpd, .eBegin, .ePush, .dRx, .dDone]

/-- At a stream port the decoder takes an instruction's bytes and leaves those behind them (30_encoding.md R70, R71,
R86). -/
theorem decode_encode_append {i : Instr} (hwf : i.wf = true) (hport : i.port ∈ streamPorts) (later : List Byte) :
    decode i.port (encode i ++ later) = .ok (i, later) := by
  cases i with
  | abort _ _ _ | load _ _ _ | jump _ _ _ => exact decodeFrame_frameWire hwf _ _ later
  | reservedCmd cmd len crc payload =>
    obtain ⟨hcmd, hlen⟩ := Bool.and_eq_true_iff.1 hwf
    have hrow := frameInstr_of_reserved (of_decide_eq_true hcmd) len crc payload
    exact (decodeFrame_frameWire hlen cmd crc later).trans (by rw [hrow])
  | cUpd _ | eBegin _ | ePush _ | dRx _ => rfl
  | dDone ok => exact decodeDone_operand ok later
  | _ => simp [streamPorts, Instr.port] at hport

/-- The decoder reads back every well-formed instruction; at the ports that carry no stream it takes all the bytes there
(30_encoding.md R78, R86; log 18 for the pseudo-operations). -/
theorem decode_encode {i : Instr} (hwf : i.wf = true) : decode i.port (encode i) = .ok (i, []) := by
  have hstream (hport : i.port ∈ streamPorts) : decode i.port (encode i) = .ok (i, []) := by
    simpa using decode_encode_append hwf hport []
  cases i with
  | abort _ _ _ | load _ _ _ | jump _ _ _ | reservedCmd _ _ _ _ => exact hstream (by simp [streamPorts, Instr.port])
  | cUpd _ | eBegin _ | ePush _ | dRx _ | dDone _ => exact hstream (by simp [streamPorts, Instr.port])
  | rplK | rplC | rplU | rplE => rfl
  | rplOther read =>
    have hother : decodeReply read = .rplOther read := decodeReply_of_undefined (by simpa [Instr.wf] using hwf)
    simp only [Instr.port, encode, decode, hother]
  | cClr | cVal | eEnd | ePop | eResend | eRelease | dTx | rDec _ => rfl
  | send _ _ => rfl
  | upload base image => exact decodeUpload_be32 base image
  | boot base entry image => exact decodeBoot_be32 base entry image

/-- Settles O1, by a case for each instruction. -/
theorem decodeReadsBackEncode : Obligations.DecodeReadsBackEncode := fun _ hwf =>
  ⟨decode_encode hwf, decode_encode_append hwf⟩

/-! ### Words of the opcode table -/

/-- A 32-bit word is read by the header's fields, LEN `H[31:24]`, CRC `H[23:8]`, CMD `H[7:0]` (30_encoding.md R71), with
LEN zero bytes of payload (log 7). -/
theorem decodeTableWord_header (H : Addr) :
    decodeTableWord 32 H.toNat =
      some (frameInstr (H.extractLsb' 0 8) (H.extractLsb' 24 8) (H.extractLsb' 8 16)
        (List.replicate (H.extractLsb' 24 8).toNat 0#8)) := by
  have hbytes : tableStimulus 32 H.toNat =
      some (.frame, be32 H ++ List.replicate (H.extractLsb' 24 8).toNat 0#8) := by
    simp [tableStimulus]
  have hdecode := decodeFrame_cons (List.length_replicate (n := (H.extractLsb' 24 8).toNat) (a := 0#8))
    (H.extractLsb' 16 8) (H.extractLsb' 8 8) (H.extractLsb' 0 8) []
  rw [List.append_nil, fromBe16_extractLsb' H 8] at hdecode
  simp only [decodeTableWord, hbytes, decode, be32, List.cons_append, List.nil_append, hdecode]

/-- An 8-bit word is one reply read (30_encoding.md R78, R79). -/
theorem decodeTableWord_reply (b : Byte) : decodeTableWord 8 b.toNat = some (decodeReply [b]) := by
  simp [decodeTableWord, tableStimulus, decode]

/-- Settles O2: the headers by their fields, the bytes by the reply decoder. -/
theorem specWordsDecode : Obligations.SpecWordsDecode :=
  ⟨decodeTableWord_header 0x00000000#32, decodeTableWord_header 0x042A1F02#32, decodeTableWord_header 0x00306303#32,
    decodeTableWord_reply 0x4B#8, decodeTableWord_reply 0x43#8, decodeTableWord_reply 0x55#8,
    decodeTableWord_reply 0x45#8, decodeTableWord_reply 0x6B#8⟩

end Sys2Proof
end

section
/-! PROOF. The checksum and unit C (40_crc16.md R102 to R111): the byte step in its equivalent forms, its linearity, and
the laws of `crc16` that follow, by reading a message as the bits it feeds to the register one by one. -/

namespace Sys2Proof.Machine

/-! ### One bit step -/

theorem crcShift_of_msb_eq_false {r : Half} (h : r.msb = false) : crcShift r = r <<< 1 := by simp [crcShift, h]

theorem crcShift_of_msb_eq_true {r : Half} (h : r.msb = true) : crcShift r = r <<< 1 ^^^ crcPoly := by
  simp [crcShift, h]

theorem crcShift_eq_xor (r : Half) : crcShift r = r <<< 1 ^^^ bif r.msb then crcPoly else 0#16 := by
  cases h : r.msb with
  | true => exact crcShift_of_msb_eq_true h
  | false => exact (crcShift_of_msb_eq_false h).trans BitVec.xor_zero.symm

theorem crcShift_xor (a b : Half) : crcShift (a ^^^ b) = crcShift a ^^^ crcShift b := by
  have hpoly : (bif (a ^^^ b).msb then crcPoly else 0#16) =
      (bif a.msb then crcPoly else 0#16) ^^^ bif b.msb then crcPoly else 0#16 := by
    rw [BitVec.msb_xor]
    cases a.msb <;> cases b.msb <;> decide
  rw [crcShift_eq_xor, crcShift_eq_xor a, crcShift_eq_xor b, hpoly, BitVec.shiftLeft_xor_distrib]
  ac_rfl

theorem crcShift_zero : crcShift 0#16 = 0#16 := by decide

/-- The polynomial has a non-zero constant term, so a bit shifted out is not lost. -/
theorem crcShift_eq_zero_iff {r : Half} : crcShift r = 0#16 ↔ r = 0#16 := by
  refine ⟨fun h => ?_, fun h => h ▸ crcShift_zero⟩
  cases hr : r.msb with
  | true =>
    have hodd : (r <<< 1 ^^^ crcPoly).getLsbD 0 = true := by simp [crcPoly]
    rw [← crcShift_of_msb_eq_true hr, h] at hodd
    exact absurd hodd (by decide)
  | false =>
    rw [crcShift_of_msb_eq_false hr] at h
    rw [BitVec.msb_eq_false_iff_two_mul_lt] at hr
    bv_omega

/-! ### Several bit steps -/

theorem crcShift_iterate_xor (n : Nat) (a b : Half) :
    crcShift^[n] (a ^^^ b) = crcShift^[n] a ^^^ crcShift^[n] b := by
  induction n with
  | zero => rfl
  | succ n ih => simp only [Function.iterate_succ_apply', ih, crcShift_xor]

theorem crcShift_iterate_eq_zero_iff {n : Nat} {r : Half} : crcShift^[n] r = 0#16 ↔ r = 0#16 := by
  induction n with
  | zero => rfl
  | succ n ih => rw [Function.iterate_succ_apply', crcShift_eq_zero_iff, ih]

/-- No bit step taps the polynomial before a set bit reaches the top. -/
theorem crcShift_iterate_of_leading_zeros {n : Nat} {r : Half} (h : ∀ i < n, r.getMsbD i = false) :
    crcShift^[n] r = r <<< n := by
  induction n with
  | zero => simp
  | succ n ih =>
    have hmsb : (r <<< n).msb = false := by simp [BitVec.msb_eq_getMsbD_zero, h n n.lt_succ_self]
    rw [Function.iterate_succ_apply', ih fun i hi => h i (by omega), crcShift_of_msb_eq_false hmsb,
      BitVec.shiftLeft_add]

theorem crcShift8_eq_iterate (r : Half) : crcShift8 r = crcShift^[8] r := rfl

theorem crcShift8_xor (a b : Half) : crcShift8 (a ^^^ b) = crcShift8 a ^^^ crcShift8 b := crcShift_iterate_xor 8 a b

/-! ### The byte step -/

theorem crcTable_xor (d e : Byte) : crcTable (d ^^^ e) = crcTable d ^^^ crcTable e := by
  simp only [crcTable, BitVec.zeroExtend, BitVec.setWidth_xor, BitVec.shiftLeft_xor_distrib, crcShift8_xor]

theorem crcTable_zero : crcTable 0x00#8 = 0x0000#16 := by decide

theorem crcStep_xor (a b : Half) (d e : Byte) : crcStep (a ^^^ b) (d ^^^ e) = crcStep a d ^^^ crcStep b e := by
  simp only [crcStep, BitVec.extractLsb'_xor, BitVec.shiftLeft_xor_distrib, crcTable_xor]
  ac_rfl

theorem crcStep_zero_left (d : Byte) : crcStep 0x0000#16 d = crcTable d := by simp [crcStep]

/-- A byte equal to the high byte of the accumulator cancels it. -/
theorem crcStep_high_byte (acc : Half) : crcStep acc (acc.extractLsb' 8 8) = acc <<< 8 := by
  simp [crcStep, crcTable_zero]

/-- Settles O7. -/
theorem crcStepIsLinear : Obligations.CrcStepIsLinear := crcStep_xor

/-! ### The bit-serial form -/

theorem half_eq_high_xor_low (a : Half) :
    a = (a.extractLsb' 8 8).zeroExtend 16 <<< 8 ^^^ (a.extractLsb' 0 8).zeroExtend 16 := by
  refine BitVec.eq_of_getLsbD_eq fun i hi => ?_
  by_cases h : i < 8
  · simp [h, hi]
  · have hhigh : i - 8 < 8 := by omega
    simp [h, hi, hhigh, Nat.add_sub_cancel' (Nat.le_of_not_lt h)]

/-- Eight bit steps only shift the low byte of the register into the high one. -/
theorem crcShift8_low_byte (acc : Half) : crcShift8 ((acc.extractLsb' 0 8).zeroExtend 16) = acc <<< 8 := by
  rw [crcShift8_eq_iterate, crcShift_iterate_of_leading_zeros fun i hi => by simp; omega]
  refine BitVec.eq_of_getLsbD_eq fun i hi => ?_
  by_cases h : i < 8
  · simp [h]
  · have hlow : i - 8 < 8 := by omega
    simp [h, hi, hlow, BitVec.getLsbD_eq_getElem (hlow.trans (by decide : 8 < 16))]

theorem crcStep_eq_crcShift8 (acc : Half) (d : Byte) : crcStep acc d = crcShift8 (acc ^^^ d.zeroExtend 16 <<< 8) := by
  have hsplit : acc ^^^ d.zeroExtend 16 <<< 8 =
      (acc.extractLsb' 8 8 ^^^ d).zeroExtend 16 <<< 8 ^^^ (acc.extractLsb' 0 8).zeroExtend 16 := by
    conv_lhs => rw [half_eq_high_xor_low acc]
    simp only [BitVec.zeroExtend, BitVec.setWidth_xor, BitVec.shiftLeft_xor_distrib]
    ac_rfl
  rw [hsplit, crcShift8_xor, crcShift8_low_byte]
  rfl

/-- Settles O5. -/
theorem crcStepIsBitSerial : Obligations.CrcStepIsBitSerial := crcStep_eq_crcShift8

/-! ### The parallel form -/

theorem crcPoly_getElem {i : Nat} (hi : i < 16) : crcPoly[i] = decide (i = 0 ∨ i = 5 ∨ i = 12) := by
  revert i
  decide

theorem crcShift_getElem (r : Half) {i : Nat} (hi : i < 16) :
    (crcShift r)[i] = ((decide (0 < i) && r[i - 1]) ^^ (r[15] && decide (i = 0 ∨ i = 5 ∨ i = 12))) := by
  have hmsb : r[15] = r.msb := (BitVec.msb_eq_getLsbD_last r).symm
  rw [← crcPoly_getElem hi, hmsb]
  cases h : r.msb <;> simp [crcShift, h, Nat.pos_iff_ne_zero]

/-- The equations of R103 with a zero accumulator are those of the table: eight bit steps, one equation for each bit. -/
theorem crcTable_getLsbD (b : Byte) {i : Nat} (hi : i < 16) : (crcTable b).getLsbD i = crcParallelBit 0#16 b i := by
  interval_cases i <;>
    simp [crcTable, crcShift8, crcShift_getElem, crcParallelBit, Bool.bne_eq_xor, Bool.xor_comm]

/-- The accumulator enters the equations of R103 by its high byte with the data and by its low byte shifted. -/
theorem crcParallelBit_eq_xor (a : Half) (d : Byte) {i : Nat} (hi : i < 16) :
    crcParallelBit a d i = ((a <<< 8).getLsbD i ^^ crcParallelBit 0#16 (a.extractLsb' 8 8 ^^^ d) i) := by
  interval_cases i <;> simp [crcParallelBit, Bool.bne_eq_xor]

/-- Settles O6. -/
theorem crcStepIsParallel : Obligations.CrcStepIsParallel := by
  intro acc d i hi
  rw [crcStep, BitVec.getLsbD_xor, crcTable_getLsbD _ hi, crcParallelBit_eq_xor acc d hi, Bool.xor_comm]

/-! ### Leading zeros and the residue -/

theorem crcFold_zero_replicate (n : Nat) : crcFold 0x0000#16 (List.replicate n 0x00#8) = 0x0000#16 := by
  induction n with
  | zero => rfl
  | succ n ih => rw [List.replicate_succ, crcFold_cons, crcStep_zero_left, crcTable_zero, ih]

/-- Settles O8. -/
theorem crcIgnoresLeadingZeros : Obligations.CrcIgnoresLeadingZeros := by
  refine ⟨fun n s => ?_, crcStep_zero_left⟩
  rw [crc16_append, crc16_eq_crcFold (List.replicate _ _), crcFold_zero_replicate, crc16_eq_crcFold]

/-- Each byte of the accumulator, taken as a message byte in turn, cancels itself. -/
theorem crcFold_be16_self (acc : Half) : crcFold acc (be16 acc) = 0x0000#16 := by
  have hlow : acc.extractLsb' 0 8 = (acc <<< 8).extractLsb' 8 8 := by
    refine BitVec.eq_of_getLsbD_eq fun i hi => ?_
    have hhigh : 8 + i < 16 := by omega
    simp [hi, hhigh, BitVec.getLsbD_eq_getElem (hi.trans (by decide : 8 < 16))]
  rw [be16, crcFold_cons, crcStep_high_byte, hlow, crcFold_cons, crcStep_high_byte, crcFold_nil, ← BitVec.shiftLeft_add]
  exact BitVec.shiftLeft_eq_zero (by decide)

/-- Settles O9. -/
theorem crcResidueIsZero : Obligations.CrcResidueIsZero := fun s => by rw [crc16_append, crcFold_be16_self]

/-! ### A message bit by bit -/

/-- A bit at the top of the register, where the next bit step takes it. -/
def topBit (b : Bool) : Half := BitVec.ofBool b ++ 0#15

theorem topBit_getMsbD (b : Bool) (i : Nat) : (topBit b).getMsbD i = (decide (i = 0) && b) := by
  unfold topBit
  rw [BitVec.getMsbD_append, BitVec.getMsbD_ofBool]
  by_cases h : i = 0 <;> simp [h]

theorem topBit_xor (a b : Bool) : topBit (a ^^ b) = topBit a ^^^ topBit b := by
  cases a <;> cases b <;> decide

/-- The bits `f 0`, …, `f (n - 1)` taken into the register `r` one at a time, each by one bit step (R102). -/
def crcRun (r : Half) (f : Nat → Bool) : Nat → Half
  | 0 => r
  | n + 1 => crcShift (crcRun r f n ^^^ topBit (f n))

theorem crcRun_succ (r : Half) (f : Nat → Bool) (n : Nat) :
    crcRun r f (n + 1) = crcShift (crcRun r f n ^^^ topBit (f n)) := rfl

theorem crcRun_add (r : Half) (f : Nat → Bool) (m n : Nat) :
    crcRun r f (m + n) = crcRun (crcRun r f m) (fun k => f (m + k)) n := by
  induction n with
  | zero => rfl
  | succ n ih => rw [← Nat.add_assoc, crcRun_succ, ih, crcRun_succ]

theorem crcRun_xor (a b : Half) (f g : Nat → Bool) (n : Nat) :
    crcRun (a ^^^ b) (fun k => f k ^^ g k) n = crcRun a f n ^^^ crcRun b g n := by
  induction n with
  | zero => rfl
  | succ n ih =>
    rw [crcRun_succ, ih, topBit_xor, crcRun_succ, crcRun_succ, ← crcShift_xor]
    ac_rfl

theorem crcRun_of_zeros {f : Nat → Bool} (r : Half) {n : Nat} (h : ∀ k < n, f k = false) :
    crcRun r f n = crcShift^[n] r := by
  induction n with
  | zero => rfl
  | succ n ih =>
    have hzero : topBit false = 0#16 := by decide
    rw [crcRun_succ, ih fun k hk => h k (by omega), h n n.lt_succ_self, hzero, BitVec.xor_zero,
      Function.iterate_succ_apply']

/-! ### Up to sixteen bits at once -/

/-- The first `n` of the bits `f`, laid side by side from the top of the register. -/
def firstBits (f : Nat → Bool) : Nat → Half
  | 0 => 0#16
  | n + 1 => firstBits f n ^^^ topBit (f n) >>> n

theorem topBit_ushiftRight_getMsbD (b : Bool) {n : Nat} (hn : n < 16) (i : Nat) :
    (topBit b >>> n).getMsbD i = (decide (i = n) && b) := by
  rw [BitVec.getMsbD_ushiftRight, topBit_getMsbD]
  by_cases h : i = n
  · simp [h, hn]
  · simp [h]
    omega

theorem firstBits_getMsbD (f : Nat → Bool) {n : Nat} (hn : n ≤ 16) (i : Nat) :
    (firstBits f n).getMsbD i = (decide (i < n) && f i) := by
  induction n with
  | zero => simp [firstBits]
  | succ n ih =>
    rw [firstBits, BitVec.getMsbD_xor, ih (by omega), topBit_ushiftRight_getMsbD _ (by omega)]
    rcases Nat.lt_trichotomy i n with h | h | h
    · simp [h, h.ne, Nat.lt_succ_of_lt h]
    · simp [h]
    · simp [h.ne', Nat.not_lt.2 h.le, Nat.not_lt.2 h]

/-- A bit `n` places below the top reaches it in `n` bit steps. -/
theorem crcShift_iterate_topBit_ushiftRight (b : Bool) {n : Nat} (hn : n < 16) :
    crcShift^[n] (topBit b >>> n) = topBit b := by
  rw [crcShift_iterate_of_leading_zeros fun i hi => by simp [topBit_ushiftRight_getMsbD b hn, hi.ne]]
  refine BitVec.eq_of_getMsbD_eq fun i hi => ?_
  rw [BitVec.getMsbD_shiftLeft, topBit_ushiftRight_getMsbD b hn, topBit_getMsbD]
  simp

/-- Taking up to sixteen bits one at a time is adding them to the register at once and then stepping. -/
theorem crcRun_eq_iterate (r : Half) (f : Nat → Bool) {n : Nat} (hn : n ≤ 16) :
    crcRun r f n = crcShift^[n] (r ^^^ firstBits f n) := by
  induction n with
  | zero => simp [crcRun, firstBits]
  | succ n ih =>
    rw [crcRun_succ, ih (by omega), ← crcShift_iterate_topBit_ushiftRight (f n) hn, ← crcShift_iterate_xor,
      Function.iterate_succ_apply', firstBits, BitVec.xor_assoc]

/-! ### The bits of a message -/

theorem messageBit_eq_getMsbD (s : List Byte) (p : Nat) : messageBit s p = (s.getD (p / 8) 0#8).getMsbD (p % 8) := by
  have h : p % 8 < 8 := Nat.mod_lt p (by decide)
  simp [messageBit, BitVec.getMsbD_eq_getLsbD, h]

theorem messageBit_cons_of_lt (d : Byte) (s : List Byte) {p : Nat} (h : p < 8) :
    messageBit (d :: s) p = d.getMsbD p := by
  rw [messageBit_eq_getMsbD, Nat.div_eq_of_lt h, Nat.mod_eq_of_lt h, List.getD_cons_zero]

theorem messageBit_cons_add (d : Byte) (s : List Byte) (p : Nat) : messageBit (d :: s) (8 + p) = messageBit s p := by
  rw [messageBit, Nat.add_div_left p (by decide), Nat.add_mod_left, List.getD_cons_succ, messageBit]

theorem messageBit_of_length_le (s : List Byte) {p : Nat} (h : 8 * s.length ≤ p) : messageBit s p = false := by
  have hbyte : s.length ≤ p / 8 := by omega
  rw [messageBit, List.getD_eq_default _ _ hbyte, BitVec.getLsbD_zero]

/-- A message is determined by its length and its bits. -/
theorem eq_of_messageBit_eq {s t : List Byte} (hlen : s.length = t.length) (h : ∀ p, messageBit s p = messageBit t p) :
    s = t := by
  induction s generalizing t with
  | nil => exact (List.length_eq_zero_iff.1 hlen.symm).symm
  | cons d s ih =>
    cases t with
    | nil => cases hlen
    | cons e t =>
      have hhead : d = e := BitVec.eq_of_getMsbD_eq fun i hi => by
        simpa only [messageBit_cons_of_lt _ _ hi] using h i
      have htail : s = t := ih (Nat.succ.inj hlen) fun p => by
        simpa only [messageBit_cons_add] using h (8 + p)
      rw [hhead, htail]

theorem firstBits_messageBit_cons (d : Byte) (s : List Byte) :
    firstBits (messageBit (d :: s)) 8 = d.zeroExtend 16 <<< 8 := by
  refine BitVec.eq_of_getMsbD_eq fun i hi => ?_
  rw [firstBits_getMsbD _ (by decide)]
  by_cases h : i < 8
  · simp [h, messageBit_cons_of_lt d s h]
  · simp [h, BitVec.getMsbD_of_ge d i (Nat.le_of_not_lt h)]

/-- The checksum takes a message's bits in order (20_memory.md R52, 40_crc16.md R102). -/
theorem crcFold_eq_crcRun (acc : Half) (s : List Byte) :
    crcFold acc s = crcRun acc (messageBit s) (8 * s.length) := by
  induction s generalizing acc with
  | nil => rfl
  | cons d s ih =>
    have hbyte : crcRun acc (messageBit (d :: s)) 8 = crcStep acc d := by
      rw [crcRun_eq_iterate _ _ (by decide), firstBits_messageBit_cons, crcStep_eq_crcShift8, crcShift8_eq_iterate]
    rw [crcFold_cons, ih, List.length_cons, Nat.mul_succ, Nat.add_comm, crcRun_add, hbyte]
    simp only [messageBit_cons_add]

/-! ### Bursts -/

/-- Bits that are 0 outside sixteen consecutive places leave the register zero only when they are all 0: before the burst
the register is zero, the burst is laid in it as one word, and no later bit step loses it. -/
theorem eq_false_of_crcRun_eq_zero {f : Nat → Bool} {first n : Nat} (hend : ∀ p, n ≤ p → f p = false)
    (hburst : ∀ p, f p = true → first ≤ p ∧ p < first + 16) (hrun : crcRun 0#16 f n = 0#16) (p : Nat) : f p = false := by
  have houtside (p : Nat) (hp : p < first ∨ first + 16 ≤ p) : f p = false :=
    Bool.eq_false_iff.2 fun hf => by
      have := hburst p hf
      omega
  have hbefore : crcRun 0#16 f first = 0#16 := by
    rw [crcRun_of_zeros _ fun k hk => houtside k (.inl hk), crcShift_iterate_eq_zero_iff]
  have hlong : crcRun 0#16 f (first + 16 + n) = 0#16 := by
    rw [Nat.add_comm, crcRun_add, hrun, crcRun_of_zeros _ fun k _ => hend _ (by omega), crcShift_iterate_eq_zero_iff]
  have hword : firstBits (fun k => f (first + k)) 16 = 0#16 := by
    rw [crcRun_add, crcRun_of_zeros _ fun k _ => houtside _ (.inr (Nat.le_add_right _ k)), crcShift_iterate_eq_zero_iff,
      crcRun_add, hbefore, crcRun_eq_iterate _ _ (le_refl 16), crcShift_iterate_eq_zero_iff, BitVec.zero_xor] at hlong
    exact hlong
  refine Bool.eq_false_iff.2 fun hf => ?_
  obtain ⟨k, rfl⟩ := Nat.exists_eq_add_of_le (hburst p hf).1
  have hk := firstBits_getMsbD (fun k => f (first + k)) (le_refl 16) k
  simp [hword, hf, Nat.add_lt_add_iff_left.1 (hburst _ hf).2] at hk

/-- Two checksums differ by the run of the bits in which the messages differ. -/
theorem crc16_xor_eq_crcRun {s t : List Byte} (hlen : s.length = t.length) :
    crc16 s ^^^ crc16 t = crcRun 0#16 (fun p => messageBit s p ^^ messageBit t p) (8 * s.length) := by
  rw [crc16_eq_crcFold, crc16_eq_crcFold, crcFold_eq_crcRun, crcFold_eq_crcRun, ← hlen, ← crcRun_xor, BitVec.xor_zero]

/-- Settles O10: equal checksums make the run of the differing bits zero, so that no bit differs. -/
theorem crcDetectsShortBursts : Obligations.CrcDetectsShortBursts := by
  intro sent received first hlen hne hburst hcrc
  have hrun : crcRun 0#16 (fun p => messageBit sent p ^^ messageBit received p) (8 * sent.length) = 0#16 := by
    rw [← crc16_xor_eq_crcRun hlen, hcrc, BitVec.xor_self]
  have hend (p : Nat) (hp : 8 * sent.length ≤ p) : (messageBit sent p ^^ messageBit received p) = false := by
    rw [messageBit_of_length_le sent hp, messageBit_of_length_le received (hlen ▸ hp), Bool.xor_self]
  have hequal := eq_false_of_crcRun_eq_zero hend (fun p hp => hburst p (Bool.xor_iff_ne.1 hp)) hrun
  exact hne (eq_of_messageBit_eq hlen fun p => bne_eq_false_iff_eq.1 (hequal p))

/-! ### Unit C -/

theorem exec_cClr (s : State) : exec .cClr s = .next { s with c := clearC s.c } := rfl

theorem exec_cUpd (d : Byte) (s : State) : exec (.cUpd d) s = .next { s with c := updateC d s.c } := rfl

theorem exec_cVal (s : State) : exec .cVal s = .next (s.emit (.crc s.c.acc)) := rfl

theorem execAll_cons_of_next {i : Instr} {s t : State} (h : exec i s = .next t) (is : List Instr) :
    execAll (i :: is) s = execAll is t := by
  rw [execAll, h]

@[simp] theorem messageOf_cUpd (d : Byte) (is : List Instr) : messageOf (.cUpd d :: is) = d :: messageOf is := rfl

@[simp] theorem messageOf_cVal (is : List Instr) : messageOf (.cVal :: is) = messageOf is := rfl

/-- Settles O11. -/
theorem cClrClearsAccumulator : Obligations.CClrClearsAccumulator := exec_cClr

/-- Settles O12. -/
theorem cUpdTakesOneByte : Obligations.CUpdTakesOneByte := exec_cUpd

/-- Settles O13. -/
theorem cValPresentsAccumulator : Obligations.CValPresentsAccumulator := exec_cVal

/-- C.UPD and C.VAL events fold the bytes of the former into the accumulator and change nothing else but the presented
values. -/
theorem execAll_unitC {events : List Instr} (hevents : ∀ i ∈ events, i = .cVal ∨ ∃ d, i = .cUpd d) (s : State) :
    ∃ t, execAll events s = .next t ∧ t = { s with c := t.c, ports := t.ports } ∧
      t.c.acc = crcFold s.c.acc (messageOf events) := by
  induction events generalizing s with
  | nil => exact ⟨s, rfl, rfl, rfl⟩
  | cons i is ih =>
    obtain ⟨hi, his⟩ := List.forall_mem_cons.1 hevents
    rcases hi with rfl | ⟨d, rfl⟩
    · rw [execAll_cons_of_next (exec_cVal s), messageOf_cVal]
      exact ih his _
    · rw [execAll_cons_of_next (exec_cUpd d s), messageOf_cUpd, crcFold_cons]
      exact ih his _

/-- Settles O14. -/
theorem unitCComputesCrc16 : Obligations.UnitCComputesCrc16 := by
  intro s events hevents
  rw [execAll_cons_of_next (exec_cClr s)]
  exact execAll_unitC hevents _

end Sys2Proof.Machine
end

section
/-! PROOF. The frame encoder (41_frame_encoder.md R120 to R128): each event of unit E where it is enabled, what the
pushes of a payload leave in unit E, what the pops of a frame present; from these, that a run of the events carries out
`encode`. -/

namespace Sys2Proof.Machine

/-! ### The events where they are enabled -/

theorem occurs_of_enabled {isEnabled : Bool} (h : isEnabled = true) (t s : State) : occurs isEnabled t s = .next t := by
  rw [h, occurs_true]

section Events

variable {s : State}

theorem exec_eBegin_of_idle {cmd : Byte} (hidle : s.e.state = .idle) (hcmd : isCommand cmd = true) :
    exec (.eBegin cmd) s = .next { s with e := beginE cmd s.e } :=
  occurs_of_enabled (by rw [hidle, hcmd]; rfl : (s.e.state == .idle && isCommand cmd) = true) _ _

theorem exec_ePush_of_fill (d : Byte) (hfill : s.e.state = .fill) :
    exec (.ePush d) s = .next { s with e := pushE s.params.maxPayload d s.e } :=
  occurs_of_enabled (beq_iff_eq.2 hfill) _ _

theorem exec_eEnd_of_fill (hfill : s.e.state = .fill) : exec .eEnd s = .next (endFrame s) :=
  occurs_of_enabled (beq_iff_eq.2 hfill) _ _

theorem exec_ePop_of_send (hsend : s.e.state = .send) : exec .ePop s = .next (popByte s) :=
  occurs_of_enabled (beq_iff_eq.2 hsend) _ _

theorem exec_eResend_of_done (hdone : s.e.state = .done) : exec .eResend s = .next { s with e := resendE s.e } :=
  occurs_of_enabled (beq_iff_eq.2 hdone) _ _

theorem exec_eRelease_of_done (hdone : s.e.state = .done) : exec .eRelease s = .next { s with e := releaseE s.e } :=
  occurs_of_enabled (beq_iff_eq.2 hdone) _ _

/-- E.END after an overflow (41_frame_encoder.md R124). -/
theorem endFrame_of_ovf (hovf : s.e.ovf = true) :
    endFrame s = { s with e := rejectE s.e, ports := s.ports ++ [.status .reject] } := by
  simp [endFrame, State.emit, endE, endStatus, hovf]

/-- E.END of a frame that fits (41_frame_encoder.md R124). -/
theorem endFrame_of_not_ovf (hovf : s.e.ovf = false) :
    endFrame s = { s with e := closeE s.e, ports := s.ports ++ [.status .ok] } := by
  simp [endFrame, State.emit, endE, endStatus, hovf]

end Events

/-- Settles O15. -/
theorem eBeginOpensFrame : Obligations.EBeginOpensFrame := fun cmd _ hidle hcmd =>
  exec_eBegin_of_idle hidle ((isCommand_iff cmd).2 hcmd)

/-- Settles O16. -/
theorem ePushStoresOrOverflows : Obligations.EPushStoresOrOverflows := by
  intro d s hfill
  rw [exec_ePush_of_fill d hfill]
  rcases pushE_cases s.params.maxPayload d s.e with ⟨hroom, h⟩ | ⟨hfull, h⟩ <;> rw [h]
  · rw [if_pos hroom]
  · rw [if_neg (Nat.not_lt.2 hfull)]

/-- Settles O18. -/
theorem eEndClosesOrRejects : Obligations.EEndClosesOrRejects := by
  intro s hfill
  rw [exec_eEnd_of_fill hfill]
  cases hovf : s.e.ovf
  · rw [endFrame_of_not_ovf hovf]
    rfl
  · rw [endFrame_of_ovf hovf]
    rfl

/-- Settles O20. -/
theorem eResendAndERelease : Obligations.EResendAndERelease := fun _ hdone =>
  ⟨exec_eResend_of_done hdone, exec_eRelease_of_done hdone⟩

/-! ### The frame as a function -/

theorem encodeFrame_eq_cons (cmd : Byte) (payload : List Byte) :
    encodeFrame cmd payload =
      BitVec.ofNat 8 payload.length :: (crc16 (cmd :: payload)).extractLsb' 8 8 ::
        (crc16 (cmd :: payload)).extractLsb' 0 8 :: cmd :: payload := rfl

@[simp] theorem encodeFrame_length (cmd : Byte) (payload : List Byte) :
    (encodeFrame cmd payload).length = 4 + payload.length := by
  rw [encodeFrame_eq_cons]
  simp only [List.length_cons]
  omega

/-- Settles O4. -/
theorem encodeLaysOutTheFrame : Obligations.EncodeLaysOutTheFrame := by
  intro cmd payload hlen
  refine ⟨encodeFrame_length cmd payload, _, _, _, encodeFrame_eq_cons cmd payload, ?_, ?_⟩
  · exact (BitVec.toNat_ofNat ..).trans (Nat.mod_eq_of_lt (by omega))
  · exact (fromBe16_extractLsb' (crc16 (cmd :: payload)) 0).trans BitVec.extractLsb'_eq_self

/-! ### Filling a frame -/

section Filling

variable {maxPayload : Byte} {e : UnitE}

@[simp] theorem pushE_cmd (maxPayload d : Byte) (e : UnitE) : (pushE maxPayload d e).cmd = e.cmd := by
  rcases pushE_cases maxPayload d e with ⟨_, h⟩ | ⟨_, h⟩ <;> rw [h]

@[simp] theorem pushE_buf_length (maxPayload d : Byte) (e : UnitE) :
    (pushE maxPayload d e).buf.length = e.buf.length := by
  rcases pushE_cases maxPayload d e with ⟨_, h⟩ | ⟨_, h⟩ <;> simp [h]

theorem pushE_of_room (d : Byte) (hroom : e.len.toNat < maxPayload.toNat) :
    pushE maxPayload d e =
      { e with buf := e.buf.set e.len.toNat d, acc := crcStep e.acc d, len := e.len + 1#8 } := by
  rcases pushE_cases maxPayload d e with ⟨_, h⟩ | ⟨hfull, _⟩
  · exact h
  · omega

theorem pushE_len_toNat (d : Byte) (hroom : e.len.toNat < maxPayload.toNat) :
    (pushE maxPayload d e).len.toNat = e.len.toNat + 1 := by
  rw [pushE_of_room d hroom]
  bv_omega

/-- Below the cap E.PUSH appends its byte to the payload stored (10_state.md R24). -/
theorem pushE_payload (d : Byte) (hdepth : e.buf.length = maxPayload.toNat)
    (hroom : e.len.toNat < maxPayload.toNat) : (pushE maxPayload d e).payload = e.payload ++ [d] := by
  rw [UnitE.payload, pushE_len_toNat d hroom, pushE_of_room d hroom, UnitE.payload]
  simp [List.take_add_one, List.take_set_of_le, hdepth, hroom]

@[simp] theorem pushAll_state (payload : List Byte) (e : UnitE) : (pushAll maxPayload payload e).state = e.state := by
  induction payload generalizing e with
  | nil => rfl
  | cons d payload ih => simp [ih]

@[simp] theorem pushAll_cmd (payload : List Byte) (e : UnitE) : (pushAll maxPayload payload e).cmd = e.cmd := by
  induction payload generalizing e with
  | nil => rfl
  | cons d payload ih => simp [ih]

/-- Pushes overflow exactly when the payload grows beyond the cap (41_frame_encoder.md R121, R123). -/
theorem pushAll_ovf_iff (payload : List Byte) (hlen : e.len.toNat ≤ maxPayload.toNat) :
    (pushAll maxPayload payload e).ovf = true ↔
      e.ovf = true ∨ maxPayload.toNat < e.len.toNat + payload.length := by
  induction payload generalizing e with
  | nil => simp [hlen.not_gt]
  | cons d payload ih =>
    rw [pushAll_cons, List.length_cons]
    rcases pushE_cases maxPayload d e with ⟨hroom, h⟩ | ⟨hfull, h⟩
    · have hnext := pushE_len_toNat d hroom
      have hovf : (pushE maxPayload d e).ovf = e.ovf := by rw [h]
      rw [ih (by omega), hnext, hovf, Nat.add_right_comm, Nat.add_assoc]
    · have hbeyond : maxPayload.toNat < e.len.toNat + (payload.length + 1) := by omega
      have hkeep : (pushE maxPayload d e).len = e.len := by rw [h]
      have hmark : (pushE maxPayload d e).ovf = true := by rw [h]
      rw [ih (by rwa [hkeep])]
      simp [hmark, hbeyond]

/-- Pushes within the cap append their bytes to the payload in order (41_frame_encoder.md R123). -/
theorem pushAll_payload (payload : List Byte) (hdepth : e.buf.length = maxPayload.toNat)
    (hfit : e.len.toNat + payload.length ≤ maxPayload.toNat) :
    (pushAll maxPayload payload e).payload = e.payload ++ payload := by
  induction payload generalizing e with
  | nil => simp
  | cons d payload ih =>
    rw [List.length_cons] at hfit
    have hroom : e.len.toNat < maxPayload.toNat := by omega
    have hlen := pushE_len_toNat d hroom
    rw [pushAll_cons, ih (by simpa using hdepth) (by omega), pushE_payload d hdepth hroom, List.append_assoc,
      List.singleton_append]

end Filling

/-- Settles O17: that the accumulator is the checksum of the longer payload is the invariant after the push. -/
theorem ePushAppendsToPayload : Obligations.EPushAppendsToPayload := by
  intro d s he hfill hroom
  have hpayload := pushE_payload d he.depth hroom
  obtain ⟨⟨_, _, hacc⟩, _⟩ := (pushE_inv d hfill he).filling (by rw [pushE_state, hfill])
  rw [pushE_cmd, hpayload] at hacc
  refine ⟨_, exec_ePush_of_fill d hfill, rfl, hpayload, pushE_len_toNat d hroom, ?_, pushE_cmd _ _ _, ?_, hacc⟩
  · rw [pushE_state, hfill]
  · rw [pushE_of_room d hroom]

/-! ### The wire byte at each index -/

section WireByte

variable {e : UnitE} {maxPayload : Byte}

theorem wireByte_of_idx_zero (beyond : Byte) (h : e.idx = 0#9) : wireByte e beyond = e.len := by simp [wireByte, h]

theorem wireByte_of_idx_one (beyond : Byte) (h : e.idx = 1#9) : wireByte e beyond = e.acc.extractLsb' 8 8 := by
  simp [wireByte, h]

theorem wireByte_of_idx_two (beyond : Byte) (h : e.idx = 2#9) : wireByte e beyond = e.acc.extractLsb' 0 8 := by
  simp [wireByte, h]

theorem wireByte_of_idx_three (beyond : Byte) (h : e.idx = 3#9) : wireByte e beyond = e.cmd := by simp [wireByte, h]

/-- Behind the header E.POP reads the payload stored, never the buffer beyond it (41_frame_encoder.md R125). -/
theorem payload_getElem?_wireByte (beyond : Byte) (hdepth : e.len.toNat ≤ e.buf.length) (hpay : 4 ≤ e.idx.toNat)
    (hidx : e.idx.toNat ≤ 3 + e.len.toNat) : e.payload[e.idx.toNat - 4]? = some (wireByte e beyond) := by
  have hheader (i : BitVec 9) (hi : i.toNat < 4) : e.idx ≠ i := by
    rintro rfl
    omega
  have hstored : e.idx.toNat - 4 < e.buf.length := by omega
  have hbyte : wireByte e beyond = e.buf[e.idx.toNat - 4] := by
    simp [wireByte, hheader, hidx, hstored]
  rw [hbyte, UnitE.payload, List.getElem?_take_of_lt (by omega), List.getElem?_eq_getElem hstored]

theorem UnitE.payload_length (hdepth : e.len.toNat ≤ e.buf.length) : e.payload.length = e.len.toNat := by
  simpa [UnitE.payload] using hdepth

theorem UnitE.len_le_buf_length (he : e.Inv maxPayload) (hframe : e.holdsFrame maxPayload) :
    e.len.toNat ≤ e.buf.length := by
  obtain ⟨_, hlen, _⟩ := hframe
  rwa [he.depth]

end WireByte

/-- Settles O19: `popByte` with the byte and `last` that R125 selects. -/
theorem ePopEmitsNextByte : Obligations.EPopEmitsNextByte := by
  intro s he hsend
  obtain ⟨hframe, hidx⟩ := he.sending hsend
  refine ⟨wireByte s.e (Config.freeByte s.tick), isLastByte s.e, ?_, isLastByte_iff s.e, wireByte_of_idx_zero _,
    wireByte_of_idx_one _, wireByte_of_idx_two _, wireByte_of_idx_three _, fun hpay => ?_⟩
  · rw [exec_ePop_of_send hsend, ← hsend]
    rfl
  · have hbyte := payload_getElem?_wireByte (Config.freeByte s.tick) (UnitE.len_le_buf_length he hframe) hpay hidx
    rwa [UnitE.payload, List.getElem?_take_of_lt (by omega)] at hbyte

/-! ### Emitting a frame -/

/-- The frame unit E holds, as `encode` gives it (41_frame_encoder.md R120). -/
def UnitE.frame (e : UnitE) : List Byte := encodeFrame e.cmd e.payload

/-- The bytes of the frame that unit E has still to emit, the byte at `e_idx` the first. -/
def UnitE.unsentBytes (e : UnitE) : List Byte := e.frame.drop e.idx.toNat

/-- What E.POP will present while it emits the rest of the frame. -/
def UnitE.unsentOutputs (e : UnitE) : List Output := (wireOutputs e.frame).drop e.idx.toNat

/-- Unit E when the last byte of its frame is out (41_frame_encoder.md R125). -/
def UnitE.sent (e : UnitE) : UnitE := { e with state := .done, idx := BitVec.ofNat 9 (4 + e.len.toNat) }

section Emitting

variable {e : UnitE} {maxPayload : Byte} {s : State}

theorem popE_frame (e : UnitE) : (popE e).frame = e.frame := rfl

theorem popE_sent (e : UnitE) : (popE e).sent = e.sent := rfl

theorem UnitE.frame_length (hdepth : e.len.toNat ≤ e.buf.length) : e.frame.length = 4 + e.len.toNat := by
  rw [UnitE.frame, encodeFrame_length, UnitE.payload_length hdepth]

/-- The registers of a held frame are the fields of `encode` (41_frame_encoder.md R120). -/
theorem UnitE.frame_eq_cons (hdepth : e.len.toNat ≤ e.buf.length) (hacc : e.acc = crc16 (e.cmd :: e.payload)) :
    e.frame = e.len :: e.acc.extractLsb' 8 8 :: e.acc.extractLsb' 0 8 :: e.cmd :: e.payload := by
  rw [UnitE.frame, encodeFrame_eq_cons, ← hacc, UnitE.payload_length hdepth, BitVec.ofNat_toNat, BitVec.setWidth_eq]

/-- E.POP selects the byte of `encode` at `e_idx` (41_frame_encoder.md R125, R128). -/
theorem frame_getElem?_wireByte (beyond : Byte) (hsend : e.state = .send) (he : e.Inv maxPayload) :
    e.frame[e.idx.toNat]? = some (wireByte e beyond) := by
  obtain ⟨hframe, hidx⟩ := he.sending hsend
  have hdepth := UnitE.len_le_buf_length he hframe
  obtain ⟨_, _, hacc⟩ := hframe
  rw [UnitE.frame_eq_cons hdepth hacc]
  have hcases : e.idx = 0#9 ∨ e.idx = 1#9 ∨ e.idx = 2#9 ∨ e.idx = 3#9 ∨ 4 ≤ e.idx.toNat := by bv_omega
  rcases hcases with h | h | h | h | hpay
  · rw [wireByte_of_idx_zero _ h, h]; rfl
  · rw [wireByte_of_idx_one _ h, h]; rfl
  · rw [wireByte_of_idx_two _ h, h]; rfl
  · rw [wireByte_of_idx_three _ h, h]; rfl
  · rw [← payload_getElem?_wireByte beyond hdepth hpay hidx]
    obtain ⟨k, hk⟩ := Nat.exists_eq_add_of_le' hpay
    rw [hk]
    rfl

theorem wireOutputs_getElem? (bytes : List Byte) (k : Nat) :
    (wireOutputs bytes)[k]? = bytes[k]?.map fun b => .wire b (k + 1 == bytes.length) := List.getElem?_mapIdx

/-- One E.POP takes the first of the unsent bytes (41_frame_encoder.md R125). -/
theorem unsentBytes_eq_cons (beyond : Byte) (hsend : e.state = .send) (he : e.Inv maxPayload) :
    e.unsentBytes = wireByte e beyond :: (popE e).unsentBytes := by
  obtain ⟨_, hidx⟩ := he.sending hsend
  rw [UnitE.unsentBytes, UnitE.unsentBytes, popE_frame, popE_idx_toNat hidx, List.drop_eq_getElem?_toList_append,
    frame_getElem?_wireByte beyond hsend he]
  rfl

theorem unsentOutputs_eq_cons (beyond : Byte) (hsend : e.state = .send) (he : e.Inv maxPayload) :
    e.unsentOutputs = .wire (wireByte e beyond) (isLastByte e) :: (popE e).unsentOutputs := by
  obtain ⟨hframe, hidx⟩ := he.sending hsend
  have hlast : (e.idx.toNat + 1 == e.frame.length) = isLastByte e := by
    rw [UnitE.frame_length (UnitE.len_le_buf_length he hframe), Bool.eq_iff_iff, isLastByte_iff, beq_iff_eq]
    omega
  rw [UnitE.unsentOutputs, UnitE.unsentOutputs, popE_frame, popE_idx_toNat hidx, List.drop_eq_getElem?_toList_append,
    wireOutputs_getElem?, frame_getElem?_wireByte beyond hsend he, hlast]
  rfl

theorem UnitE.sent_eq_self (hdone : e.state = .done) (hidx : e.idx.toNat = 4 + e.len.toNat) : e.sent = e := by
  rw [UnitE.sent, ← hdone, ← hidx, BitVec.ofNat_toNat, BitVec.setWidth_eq]

/-- Behind the last byte nothing is left to emit. -/
theorem UnitE.unsent_eq_nil (hdepth : e.len.toNat ≤ e.buf.length) (hidx : e.idx.toNat = 4 + e.len.toNat) :
    e.unsentBytes = [] ∧ e.unsentOutputs = [] := by
  have hend : e.frame.length ≤ e.idx.toNat := by rw [UnitE.frame_length hdepth, hidx]
  exact ⟨List.drop_eq_nil_of_le hend, List.drop_eq_nil_of_le (by simpa [wireOutputs] using hend)⟩

/-- While bytes of its frame are left, unit E is in E_SEND (10_state.md R21, R27). -/
theorem UnitE.hasFrame.send_of_idx_lt (hhas : e.hasFrame) (he : e.Inv maxPayload)
    (hleft : e.idx.toNat < 4 + e.len.toNat) : e.state = .send := by
  rcases hhas with hsend | hdone
  · exact hsend
  · obtain ⟨_, hidx⟩ := he.held hdone
    omega

/-- When none are left, unit E is in E_DONE (10_state.md R21, R27). -/
theorem UnitE.hasFrame.done_of_idx_eq (hhas : e.hasFrame) (he : e.Inv maxPayload)
    (hend : e.idx.toNat = 4 + e.len.toNat) : e.state = .done := by
  rcases hhas with hsend | hdone
  · obtain ⟨_, hidx⟩ := he.sending hsend
    omega
  · exact hdone

theorem popE_hasFrame (hsend : e.state = .send) : (popE e).hasFrame := by
  by_cases hlast : isLastByte e = true
  · exact .inr (by simp [hlast])
  · exact .inl (by simp [hlast, hsend])

/-- Pops up to the frame's last byte present and send what is left of the frame, which unit E then holds. -/
theorem popTimes_of_hasFrame {n : Nat} (hhas : s.e.hasFrame) (he : s.e.Inv s.params.maxPayload)
    (hn : s.e.idx.toNat + n = 4 + s.e.len.toNat) :
    popTimes n s = { s with
      e := s.e.sent
      ports := s.ports ++ s.e.unsentOutputs
      link := { s.link with fwd := s.link.fwd ++ s.e.unsentBytes } } := by
  induction n generalizing s with
  | zero =>
    have hdone := hhas.done_of_idx_eq he hn
    obtain ⟨hframe, hidx⟩ := he.held hdone
    obtain ⟨hbytes, houtputs⟩ := UnitE.unsent_eq_nil (UnitE.len_le_buf_length he hframe) hidx
    rw [popTimes_zero, UnitE.sent_eq_self hdone hidx, hbytes, houtputs, List.append_nil, List.append_nil]
  | succ n ih =>
    have hsend := hhas.send_of_idx_lt he (by omega)
    have hnext := popE_idx_toNat (he.sending hsend).2
    rw [popTimes_succ, ih (popE_hasFrame hsend) (popE_inv hsend he) (by simp only [popByte_e, popE_len]; omega),
      unsentOutputs_eq_cons (Config.freeByte s.tick) hsend he, unsentBytes_eq_cons (Config.freeByte s.tick) hsend he]
    simp [popE_sent]

/-- Pops within the frame are all enabled. -/
theorem execAll_pops {n : Nat} (hhas : s.e.hasFrame) (he : s.e.Inv s.params.maxPayload)
    (hn : s.e.idx.toNat + n ≤ 4 + s.e.len.toNat) : execAll (List.replicate n .ePop) s = .next (popTimes n s) := by
  induction n generalizing s with
  | zero => rfl
  | succ n ih =>
    have hsend := hhas.send_of_idx_lt he (by omega)
    have hnext := popE_idx_toNat (he.sending hsend).2
    rw [List.replicate_succ, execAll_cons_of_next (exec_ePop_of_send hsend), popTimes_succ]
    exact ih (popE_hasFrame hsend) (popE_inv hsend he) (by simp only [popByte_e, popE_len]; omega)

/-- A whole frame popped from its first byte is `encode` of its command byte and payload (41_frame_encoder.md R128). -/
theorem popFrame_of_send (hsend : s.e.state = .send) (hfirst : s.e.idx = 0#9)
    (he : s.e.Inv s.params.maxPayload) :
    popFrame s = { s with
      e := s.e.sent
      ports := s.ports ++ wireOutputs s.e.frame
      link := { s.link with fwd := s.link.fwd ++ s.e.frame } } := by
  rw [popFrame, popTimes_of_hasFrame (.inl hsend) he (by simp [hfirst]), UnitE.unsentOutputs, UnitE.unsentBytes, hfirst]
  rfl

theorem execAll_popFrame {n : Nat} (hsend : s.e.state = .send) (hfirst : s.e.idx = 0#9)
    (he : s.e.Inv s.params.maxPayload) (hn : n = 4 + s.e.len.toNat) :
    execAll (List.replicate n .ePop) s = .next { s with
      e := s.e.sent
      ports := s.ports ++ wireOutputs s.e.frame
      link := { s.link with fwd := s.link.fwd ++ s.e.frame } } := by
  rw [← popFrame_of_send hsend hfirst he, popFrame, ← hn]
  exact execAll_pops (.inl hsend) he (by simp [hfirst, hn])

end Emitting

/-- Settles O23: the resend is a whole frame popped again, after which unit E is as it was. -/
theorem resendRepeatsTheFrame : Obligations.ResendRepeatsTheFrame := by
  intro s he hdone
  obtain ⟨_, hidx⟩ := he.held hdone
  have hback : (resendE s.e).sent = s.e := UnitE.sent_eq_self hdone hidx
  have hpops := execAll_popFrame (n := 4 + s.e.len.toNat) (s := { s with e := resendE s.e }) rfl rfl
    (resendE_inv hdone he) rfl
  simp only [hback] at hpops
  exact (execAll_cons_of_next (exec_eResend_of_done hdone) _).trans hpops

/-! ### Runs of the events -/

theorem execAll_append_of_next {is : List Instr} {s t : State} (h : execAll is s = .next t) (js : List Instr) :
    execAll (is ++ js) s = execAll js t := by
  induction is generalizing s with
  | nil => cases h; rfl
  | cons i is ih =>
    obtain ⟨u, hu⟩ := exec_total i s
    rw [execAll_cons_of_next hu] at h
    rw [List.cons_append, execAll_cons_of_next hu, ih h]

theorem execAll_pushes (payload : List Byte) {s : State} (hfill : s.e.state = .fill) :
    execAll (payload.map .ePush) s = .next { s with e := pushAll s.params.maxPayload payload s.e } := by
  induction payload generalizing s with
  | nil => rfl
  | cons d payload ih =>
    rw [List.map_cons, execAll_cons_of_next (exec_ePush_of_fill d hfill), ih (by simpa using hfill), pushAll_cons]

/-- Unit E before E.END: the frame begun, and the bytes of a payload pushed. -/
def UnitE.filled (maxPayload cmd : Byte) (payload : List Byte) (e : UnitE) : UnitE :=
  pushAll maxPayload payload (beginE cmd e)

/-- Unit E after E.END has closed such a frame. -/
def UnitE.written (maxPayload cmd : Byte) (payload : List Byte) (e : UnitE) : UnitE :=
  closeE (e.filled maxPayload cmd payload)

section Written

variable {maxPayload cmd : Byte} {e : UnitE} {payload : List Byte}

theorem UnitE.filled_state : (e.filled maxPayload cmd payload).state = .fill := pushAll_state _ _

theorem UnitE.filled_ovf_iff : (e.filled maxPayload cmd payload).ovf = true ↔ maxPayload.toNat < payload.length := by
  simpa [UnitE.filled] using pushAll_ovf_iff (e := beginE cmd e) payload (Nat.zero_le _)

theorem UnitE.written_cmd : (e.written maxPayload cmd payload).cmd = cmd := pushAll_cmd _ _

theorem UnitE.written_payload (hdepth : e.buf.length = maxPayload.toNat) (hfit : payload.length ≤ maxPayload.toNat) :
    (e.written maxPayload cmd payload).payload = payload :=
  pushAll_payload payload hdepth (by simpa using hfit)

theorem UnitE.written_frame (hdepth : e.buf.length = maxPayload.toNat) (hfit : payload.length ≤ maxPayload.toNat) :
    (e.written maxPayload cmd payload).frame = encodeFrame cmd payload := by
  rw [UnitE.frame, UnitE.written_cmd, UnitE.written_payload hdepth hfit]

theorem UnitE.written_inv (hcmd : isCommand cmd = true) (he : e.Inv maxPayload) :
    (e.written maxPayload cmd payload).Inv maxPayload := by
  obtain ⟨hfill, hfilled⟩ := pushAll_inv payload (beginE_state cmd e) (beginE_inv hcmd he)
  exact UnitE.inv_of_send hfilled.depth rfl (hfilled.filling hfill).1 (Nat.zero_le _)

theorem UnitE.written_len_toNat (hcmd : isCommand cmd = true) (he : e.Inv maxPayload)
    (hfit : payload.length ≤ maxPayload.toNat) : (e.written maxPayload cmd payload).len.toNat = payload.length := by
  have hwritten : (e.written maxPayload cmd payload).Inv maxPayload := UnitE.written_inv hcmd he
  rw [← UnitE.payload_length (UnitE.len_le_buf_length hwritten (hwritten.sending rfl).1),
    UnitE.written_payload he.depth hfit]

end Written

/-- E.BEGIN, E.PUSH of each byte of a payload and E.END, all of them enabled (41_frame_encoder.md R128). -/
theorem execAll_write {cmd : Byte} {s : State} (payload : List Byte) (is : List Instr) (hidle : s.e.state = .idle)
    (hcmd : isCommand cmd = true) :
    execAll (.eBegin cmd :: (payload.map .ePush ++ .eEnd :: is)) s =
      execAll is (endFrame { s with e := s.e.filled s.params.maxPayload cmd payload }) := by
  rw [execAll_cons_of_next (exec_eBegin_of_idle hidle hcmd), execAll_append_of_next (execAll_pushes payload rfl)]
  exact execAll_cons_of_next (exec_eEnd_of_fill UnitE.filled_state) is

/-- E.END after a payload that fits closes its frame (41_frame_encoder.md R124). -/
theorem endFrame_filled_of_fit {cmd : Byte} {payload : List Byte} {s : State}
    (hfit : payload.length ≤ s.params.maxPayload.toNat) :
    endFrame { s with e := s.e.filled s.params.maxPayload cmd payload } =
      { s with e := s.e.written s.params.maxPayload cmd payload, ports := s.ports ++ [.status .ok] } :=
  endFrame_of_not_ovf (s := { s with e := s.e.filled s.params.maxPayload cmd payload })
    (Bool.eq_false_iff.2 (mt UnitE.filled_ovf_iff.1 (Nat.not_lt.2 hfit)))

/-- Settles O22: the pushes overflow, and the reject leaves unit E idle. -/
theorem encoderRejectsOversize : Obligations.EncoderRejectsOversize := by
  intro cmd p s hidle hcmd hlong
  refine ⟨_, execAll_write p [] hidle hcmd, ?_⟩
  rw [endFrame_of_ovf (UnitE.filled_ovf_iff.2 hlong)]
  exact ⟨rfl, rfl, rfl⟩

/-- Settles O21: the pushes store the payload, the close makes its first byte the next, and the pops emit the whole
frame. -/
theorem encoderEmitsEncode : Obligations.EncoderEmitsEncode := by
  intro cmd p s hidle hdepth hcmd hfit
  have he := UnitE.inv_of_idle hdepth hidle
  rw [execAll_write p _ hidle hcmd, endFrame_filled_of_fit hfit, execAll_popFrame rfl rfl (UnitE.written_inv hcmd he)
    (congrArg (4 + ·) (UnitE.written_len_toNat hcmd he hfit)).symm]
  refine ⟨_, rfl, ?_, rfl, UnitE.written_cmd, UnitE.written_payload hdepth hfit⟩
  simp [UnitE.written_frame hdepth hfit]

end Sys2Proof.Machine
end

section
/-! PROOF. The frame decoder (42_frame_decoder.md R141 to R153): `parse_frame`, the verdict, each event of unit D where
it is enabled, and what the executor's report does to the target. -/

namespace Sys2Proof.Machine

/-! ### `parse_frame` -/

/-- The record of one frame with CMD, LEN, the received checksum and PAYLOAD, the bytes `rest` behind it
(42_frame_decoder.md R141). -/
def frameRecord (maxPayload cmd len : Byte) (crc : Half) (payload rest : List Byte) : ParsedFrame where
  len := len
  crcRx := crc
  cmd := cmd
  payload := payload
  acc := crc16 (cmd :: payload)
  verdict := verdictOf maxPayload len crc cmd (crc16 (cmd :: payload))
  rest := rest

theorem parseFrame_cons {len : Byte} {payload : List Byte} (hlen : payload.length = len.toNat)
    (maxPayload hi lo cmd : Byte) (rest : List Byte) :
    parseFrame maxPayload (len :: hi :: lo :: cmd :: (payload ++ rest)) =
      some (frameRecord maxPayload cmd len (hi ++ lo) payload rest) := by
  have hthere : ¬(payload ++ rest).length < len.toNat := by
    rw [List.length_append]
    omega
  simp only [parseFrame, if_neg hthere, List.take_left' hlen, List.drop_left' hlen]
  rfl

/-- What `parse_frame` reads a value from: a header and at least LEN bytes behind it (42_frame_decoder.md R141). -/
theorem parseFrame_eq_some {maxPayload : Byte} {bytes : List Byte} {f : ParsedFrame}
    (h : parseFrame maxPayload bytes = some f) :
    ∃ len hi lo cmd payload rest, bytes = len :: hi :: lo :: cmd :: (payload ++ rest) ∧
      payload.length = len.toNat ∧ f = frameRecord maxPayload cmd len (hi ++ lo) payload rest := by
  unfold parseFrame at h
  split at h
  next len hi lo cmd tail =>
    split at h
    next => cases h
    next hthere =>
      cases h
      refine ⟨len, hi, lo, cmd, tail.take len.toNat, tail.drop len.toNat, ?_, ?_, rfl⟩
      · rw [List.take_append_drop]
      · exact List.length_take_of_le (Nat.not_lt.1 hthere)
  next => cases h

/-- Where `parse_frame` has no value the decoder names the frame as incomplete (log 10). -/
theorem decodeFrame_of_parseFrame_eq_none {maxPayload : Byte} {bytes : List Byte}
    (h : parseFrame maxPayload bytes = none) : decodeFrame bytes = .error .incompleteFrame := by
  match bytes with
  | len :: hi :: lo :: cmd :: rest =>
    by_cases hthere : rest.length < len.toNat
    · exact if_pos hthere
    · cases (if_neg hthere).symm.trans h
  | [] | [_] | [_, _] | [_, _, _] => rfl

theorem parseFrame_isSome_iff (maxPayload : Byte) (bytes : List Byte) :
    (∃ f, parseFrame maxPayload bytes = some f) ↔
      ∃ len tail, bytes = len :: tail ∧ 4 + len.toNat ≤ bytes.length := by
  constructor
  · rintro ⟨f, h⟩
    obtain ⟨len, hi, lo, cmd, payload, rest, rfl, hlen, _⟩ := parseFrame_eq_some h
    refine ⟨len, _, rfl, ?_⟩
    simp only [List.length_cons, List.length_append]
    omega
  · rintro ⟨len, tail, rfl, hlen⟩
    match tail with
    | hi :: lo :: cmd :: rest =>
      have hthere : ¬rest.length < len.toNat := by
        simp only [List.length_cons] at hlen
        omega
      exact ⟨_, if_neg hthere⟩
    | [] | [_] | [_, _] =>
      simp only [List.length_cons, List.length_nil] at hlen
      omega

/-- Settles O3: `parse_frame` and the decoder take the same bytes from the front of a stream. -/
theorem frameNeedsFourPlusLenBytes : Obligations.FrameNeedsFourPlusLenBytes := fun maxPayload =>
  ⟨parseFrame_isSome_iff maxPayload,
    fun _ hi lo cmd _ rest hlen =>
      ⟨parseFrame_cons hlen maxPayload hi lo cmd rest, decodeFrame_cons hlen hi lo cmd rest⟩,
    fun _ => decodeFrame_of_parseFrame_eq_none⟩

/-! ### The verdict -/

section Verdict

variable {maxPayload len cmd : Byte} {crcRx acc : Half}

theorem verdictOf_of_acc_ne (hcrc : acc ≠ crcRx) : verdictOf maxPayload len crcRx cmd acc = .crc := by
  simp [verdictOf, crcOk, hcrc]

/-- The lines of R150 behind the first, which a matching checksum passes. -/
theorem verdictOf_of_acc_eq (hcrc : acc = crcRx) :
    verdictOf maxPayload len crcRx cmd acc =
      if maxPayload.toNat < len.toNat then .oversize
      else if cmdJump.toNat < cmd.toNat then .unknown
      else if cmd = cmdLoad ∧ len.toNat < 4 then .format
      else if cmd = cmdJump ∧ len.toNat ≠ 4 then .format
      else .accept := by
  simp [verdictOf, crcOk, hcrc]

theorem verdictOf_of_oversize (hcrc : acc = crcRx) (hover : maxPayload.toNat < len.toNat) :
    verdictOf maxPayload len crcRx cmd acc = .oversize := by
  rw [verdictOf_of_acc_eq hcrc, if_pos hover]

theorem verdictOf_of_reserved (hcrc : acc = crcRx) (hfit : len.toNat ≤ maxPayload.toNat)
    (hcmd : cmdJump.toNat < cmd.toNat) : verdictOf maxPayload len crcRx cmd acc = .unknown := by
  rw [verdictOf_of_acc_eq hcrc, if_neg hfit.not_gt, if_pos hcmd]

/-- A frame whose checksum, length and command pass is judged by the form its command asks for (42_frame_decoder.md
R150). -/
theorem verdictOf_of_command (hcrc : acc = crcRx) (hfit : len.toNat ≤ maxPayload.toNat) (hcmd : isCommand cmd = true) :
    verdictOf maxPayload len crcRx cmd acc =
      if cmd = cmdLoad ∧ len.toNat < 4 then .format
      else if cmd = cmdJump ∧ len.toNat ≠ 4 then .format
      else .accept := by
  have hknown : ¬cmdJump.toNat < cmd.toNat := Nat.not_lt.2 ((isCommand_iff_toNat_le cmd).1 hcmd)
  rw [verdictOf_of_acc_eq hcrc, if_neg hfit.not_gt, if_neg hknown]

theorem verdictOf_of_abort (hcrc : acc = crcRx) (hfit : len.toNat ≤ maxPayload.toNat) :
    verdictOf maxPayload len crcRx cmdAbort acc = .accept := by
  rw [verdictOf_of_command hcrc hfit rfl]
  simp [cmdAbort, cmdLoad, cmdJump]

theorem verdictOf_of_load (hcrc : acc = crcRx) (hfit : len.toNat ≤ maxPayload.toNat) :
    verdictOf maxPayload len crcRx cmdLoad acc = if len.toNat < 4 then .format else .accept := by
  rw [verdictOf_of_command hcrc hfit rfl]
  simp [cmdLoad, cmdJump]

theorem verdictOf_of_jump (hcrc : acc = crcRx) (hfit : len.toNat ≤ maxPayload.toNat) :
    verdictOf maxPayload len crcRx cmdJump acc = if len ≠ 4#8 then .format else .accept := by
  have hfour : len.toNat = 4 ↔ len = 4#8 := (BitVec.toNat_inj (y := 4#8))
  rw [verdictOf_of_command hcrc hfit rfl]
  simp [cmdLoad, cmdJump, hfour]

end Verdict

/-- The reply byte of each verdict where nothing was executed (43_reply_codec.md R171). -/
theorem replyEncode_false (v : Verdict) :
    replyEncode v false = if v = .crc then 0x43#8 else if v = .unknown then 0x55#8 else 0x45#8 := by
  cases v <;> rfl

theorem replyEncode_accept (ok : Bool) : replyEncode .accept ok = if ok then 0x4B#8 else 0x45#8 := rfl

/-- Settles O27: each line's verdict where the lines before it do not hold. -/
theorem verdictIsFirstFailingCheck : Obligations.VerdictIsFirstFailingCheck := by
  refine ⟨?_, fun ok => ⟨rfl, rfl, rfl, rfl, replyEncode_accept ok⟩⟩
  rintro maxPayload len crcRx cmd acc v rfl
  refine ⟨verdictOf_of_acc_ne, verdictOf_of_oversize, verdictOf_of_reserved, ?load, ?jump, ?accepted⟩
  case load =>
    rintro hcrc hfit rfl hshort
    exact (verdictOf_of_load hcrc hfit).trans (if_pos hshort)
  case jump =>
    rintro hcrc hfit rfl hlen
    exact (verdictOf_of_jump hcrc hfit).trans (if_pos hlen)
  case accepted =>
    rintro hcrc hfit (rfl | ⟨rfl, hlen⟩ | ⟨rfl, hlen⟩)
    · exact verdictOf_of_abort hcrc hfit
    · exact (verdictOf_of_load hcrc hfit).trans (if_neg hlen.not_gt)
    · exact (verdictOf_of_jump hcrc hfit).trans (if_neg (not_not.2 hlen))

/-! ### D.RX -/

section ReceiveD

variable {maxPayload b : Byte} {d : UnitD}

theorem receiveD_of_len (h : d.state = .len) : receiveD maxPayload b d = rxLen b d := by simp [receiveD, h]

theorem receiveD_of_crcH (h : d.state = .crcH) : receiveD maxPayload b d = rxCrcH b d := by simp [receiveD, h]

theorem receiveD_of_crcL (h : d.state = .crcL) : receiveD maxPayload b d = rxCrcL b d := by simp [receiveD, h]

theorem receiveD_of_cmd (h : d.state = .cmd) : receiveD maxPayload b d = rxCmd maxPayload b d := by simp [receiveD, h]

theorem receiveD_of_pay (h : d.state = .pay) : receiveD maxPayload b d = rxPay maxPayload b d := by simp [receiveD, h]

theorem receiveD_of_disabled (h : rxEnabled d = false) : receiveD maxPayload b d = d := by
  rcases (rxEnabled_eq_false_iff d).1 h with h | h <;> simp [receiveD, h]

end ReceiveD

/-- D.RX in every state: a unit D that takes no byte is left as it is (42_frame_decoder.md R142). -/
theorem exec_dRx (b : Byte) (s : State) :
    exec (.dRx b) s = .next { s with d := receiveD s.params.maxPayload b s.d } := by
  cases hrx : rxEnabled s.d
  · rw [receiveD_of_disabled hrx]
    exact exec_of_disabled (i := .dRx b) hrx
  · exact occurs_of_enabled hrx _ _

/-- Settles O25: D.RX in each of the three states. -/
theorem dRxTakesLenAndCrc : Obligations.DRxTakesLenAndCrc := by
  intro b s
  rw [exec_dRx]
  exact ⟨fun h => by rw [receiveD_of_len h]; rfl, fun h => by rw [receiveD_of_crcH h]; rfl,
    fun h => by rw [receiveD_of_crcL h]; rfl⟩

/-- The end of a frame as one equation (42_frame_decoder.md R148, 43_reply_codec.md R171). -/
theorem completeD_eq (maxPayload : Byte) (d : UnitD) :
    completeD maxPayload d =
      if verdictOf maxPayload d.len d.crc d.cmd d.acc = .accept then { d with verdict := .accept, state := .exec }
      else { d with
        verdict := verdictOf maxPayload d.len d.crc d.cmd d.acc
        reply := if verdictOf maxPayload d.len d.crc d.cmd d.acc = .crc then 0x43#8
          else if verdictOf maxPayload d.len d.crc d.cmd d.acc = .unknown then 0x55#8 else 0x45#8
        state := .rply } := by
  rcases completeD_cases maxPayload d with ⟨hv, h⟩ | ⟨hv, h⟩
  · rw [h, if_pos hv]
    rfl
  · rw [h, if_neg hv, ← replyEncode_false]
    rfl

/-- Settles O26: `completed` is what `completeD` makes of `received`. -/
theorem dRxTakesCommandAndPayload : Obligations.DRxTakesCommandAndPayload := by
  rintro b s received completed v rfl rfl
  rw [← completeD_eq, exec_dRx]
  constructor
  · rintro hcmd rfl
    rw [receiveD_of_cmd hcmd]
    rfl
  · rintro hpay rfl
    rw [receiveD_of_pay hpay]
    rfl

/-! ### D.DONE and D.TX -/

theorem exec_dDone_of_exec {s : State} (ok : Bool) (hexec : s.d.state = .exec) :
    exec (.dDone ok) s =
      .next { s with d := doneD ok s.d, target := carryOut (commandOf s.d) ok s.tick s.target } :=
  occurs_of_enabled (beq_iff_eq.2 hexec) _ _

theorem exec_dTx_of_rply {s : State} (hrply : s.d.state = .rply) : exec .dTx s = .next (transmitReply s) :=
  occurs_of_enabled (beq_iff_eq.2 hrply) _ _

/-- Settles O28. -/
theorem dDoneSelectsReply : Obligations.DDoneSelectsReply := fun ok _ hexec =>
  ⟨_, exec_dDone_of_exec ok hexec⟩

/-- Settles O32. -/
theorem dTxSendsReply : Obligations.DTxSendsReply := fun _ hrply => exec_dTx_of_rply hrply

/-! ### The target after a report -/

section CommandOf

variable {d : UnitD}

theorem commandOf_of_abort (h : d.cmd = cmdAbort) : commandOf d = .abort := by
  simp [commandOf, h, cmdAbort, cmdLoad, cmdJump]

theorem commandOf_of_load (h : d.cmd = cmdLoad) :
    commandOf d = .load (addrField d.payload) (d.payload.drop 4) := if_pos h

theorem commandOf_of_jump (h : d.cmd = cmdJump) : commandOf d = .jump (addrField d.payload) := by
  simp [commandOf, h, cmdLoad, cmdJump]

end CommandOf

section CarryOut

variable {addr : Addr} {data : List Byte}

/-- A LOAD within the address space, reported done (42_frame_decoder.md R159). -/
theorem carryOut_load_done (hspace : addr.toNat + data.length ≤ 2 ^ 32) (tick : Nat) (t : Target) :
    carryOut (.load addr data) true tick t = { t with mem := Memory.writeBytes t.mem addr.toNat data } := if_pos hspace

/-- A LOAD within the address space, reported failed (log 14). -/
theorem carryOut_load_failed (hspace : addr.toNat + data.length ≤ 2 ^ 32) (tick : Nat) (t : Target) :
    carryOut (.load addr data) false tick t =
      { t with mem := Memory.writeSome t.mem addr.toNat (Config.freeWrite tick) data.length } := if_pos hspace

/-- What a LOAD reported done leaves in the target (42_frame_decoder.md R159, 20_memory.md R60). -/
theorem read_carryOut_load_done (hspace : addr.toNat + data.length ≤ 2 ^ 32) (tick : Nat) (t : Target) :
    (carryOut (.load addr data) true tick t).pc = t.pc ∧
    (∀ k, k < data.length → Memory.read (carryOut (.load addr data) true tick t).mem (addr.toNat + k) = data[k]?) ∧
    (∀ a, a < addr.toNat ∨ addr.toNat + data.length ≤ a →
      Memory.read (carryOut (.load addr data) true tick t).mem a = Memory.read t.mem a) := by
  rw [carryOut_load_done hspace]
  exact ⟨rfl, fun _ hk => Memory.read_writeBytes data _ _ hspace hk,
    fun _ ha => Memory.read_writeBytes_other data _ _ ha⟩

end CarryOut

/-- Settles O29: the report writes the data at consecutive addresses. -/
theorem loadReportStoresData : Obligations.LoadReportStoresData := by
  rintro s addr data hexec hcmd rfl rfl hspace
  have hdone := exec_dDone_of_exec true hexec
  rw [commandOf_of_load hcmd] at hdone
  exact ⟨_, hdone, rfl, read_carryOut_load_done hspace s.tick s.target⟩

/-- Settles O30: a failed LOAD writes at its own addresses only (log 14). -/
theorem failedLoadStaysWithinItsAddresses : Obligations.FailedLoadStaysWithinItsAddresses := by
  rintro s addr n hexec hcmd rfl rfl hspace
  have hdone := exec_dDone_of_exec false hexec
  rw [commandOf_of_load hcmd, carryOut_load_failed hspace] at hdone
  exact ⟨_, hdone, rfl, rfl, rfl, rfl, fun _ ha => Memory.read_writeSome_other _ _ _ _ ha⟩

/-- Settles O31: JUMP's part in `carryOut` is the execution address alone. -/
theorem jumpReportStartsExecution : Obligations.JumpReportStartsExecution := by
  intro s hexec hcmd
  have hdone (ok : Bool) := exec_dDone_of_exec ok hexec
  rw [commandOf_of_jump hcmd] at hdone
  exact ⟨hdone true, Config.freePc s.tick, hdone false⟩

end Sys2Proof.Machine
end

section
/-! PROOF. A whole frame at unit D (42_frame_decoder.md R141, R151, R155, R158 to R161): D.RX of its bytes, each of them
enabled, leaves the fields of `parse_frame`; from this, what each frame instruction hands over or is answered, and which
commands reach the target. -/

namespace Sys2Proof.Machine

/-! ### D.RX of a sequence -/

/-- D.RX of each byte of a sequence, every one of them enabled, takes unit D from the first state to the second. -/
def takesAll (maxPayload : Byte) : List Byte → UnitD → UnitD → Prop
  | [], d, d' => d' = d
  | b :: bytes, d, d' => rxEnabled d = true ∧ takesAll maxPayload bytes (receiveD maxPayload b d) d'

theorem receiveAll_of_takesAll {maxPayload : Byte} {bytes : List Byte} {d d' : UnitD}
    (h : takesAll maxPayload bytes d d') : receiveAll maxPayload bytes d = d' := by
  induction bytes generalizing d with
  | nil => exact h.symm
  | cons b bytes ih => exact ih h.2

theorem execAll_dRx (bytes : List Byte) (s : State) :
    execAll (bytes.map .dRx) s = .next { s with d := receiveAll s.params.maxPayload bytes s.d } := by
  induction bytes generalizing s with
  | nil => rfl
  | cons b bytes ih => rw [List.map_cons, execAll_cons_of_next (exec_dRx b s), ih, receiveAll_cons]

/-! ### The payload buffer -/

/-- `d_buf` after payload bytes have been received from index `k` on: each is stored while its index is within the
buffer (42_frame_decoder.md R147). -/
def storeFrom (maxPayload : Byte) : Nat → List Byte → List Byte → List Byte
  | _, [], buf => buf
  | k, b :: payload, buf =>
    storeFrom maxPayload (k + 1) payload (if k < maxPayload.toNat then buf.set k b else buf)

/-- A buffer as deep as the cap keeps what is before and behind the bytes stored, and drops those past its end. -/
theorem storeFrom_eq {maxPayload : Byte} (payload : List Byte) {k : Nat} {buf : List Byte}
    (hdepth : buf.length = maxPayload.toNat) :
    storeFrom maxPayload k payload buf =
      buf.take k ++ payload.take (maxPayload.toNat - k) ++ buf.drop (k + payload.length) := by
  induction payload generalizing k buf with
  | nil => simp [storeFrom]
  | cons b payload ih =>
    rw [storeFrom]
    by_cases hroom : k < maxPayload.toNat
    · have hstored : (buf.set k b).take (k + 1) = buf.take k ++ [b] := by
        simp [List.take_add_one, List.take_set_of_le, hdepth, hroom]
      have hleft : maxPayload.toNat - k = maxPayload.toNat - (k + 1) + 1 := by omega
      rw [if_pos hroom, ih (by simpa using hdepth), hstored, List.drop_set_of_lt (by omega), hleft, List.take_succ_cons,
        List.length_cons, Nat.add_right_comm, Nat.add_assoc]
      simp
    · have htake (n : Nat) (hn : k ≤ n) : buf.take n = buf := List.take_of_length_le (by omega)
      have hdrop (n : Nat) (hn : k ≤ n) : buf.drop n = [] := List.drop_eq_nil_of_le (by omega)
      have hnone (n : Nat) (hn : k ≤ n) : maxPayload.toNat - n = 0 := by omega
      rw [if_neg hroom, ih hdepth]
      simp (disch := omega) only [htake, hdrop, hnone, List.take_zero]

/-- The buffer holds a received payload as far as it is deep. -/
theorem take_storeFrom_zero {maxPayload : Byte} {payload buf : List Byte} (hdepth : buf.length = maxPayload.toNat) :
    (storeFrom maxPayload 0 payload buf).take (min payload.length maxPayload.toNat) =
      payload.take maxPayload.toNat := by
  rw [storeFrom_eq payload hdepth, List.take_zero, List.nil_append, Nat.sub_zero]
  exact List.take_left' (by rw [List.length_take, Nat.min_comm])

/-! ### D.RX of a whole frame -/

/-- Unit D between two bytes behind the header: the verdict is reached when LEN payload bytes are counted, else more are
awaited (42_frame_decoder.md R146, R147). -/
def awaitPayload (maxPayload : Byte) (d : UnitD) : UnitD :=
  if d.cnt = d.len then completeD maxPayload d else { d with state := .pay }

/-- A completed frame's verdict does not depend on the receiving state. -/
theorem completeD_withState (maxPayload : Byte) (st : DState) (d : UnitD) :
    completeD maxPayload { d with state := st } = completeD maxPayload d := by
  rw [completeD_eq, completeD_eq]

theorem rxCmd_eq_awaitPayload {maxPayload b : Byte} {d : UnitD} (hcnt : d.cnt = 0#8) :
    rxCmd maxPayload b d = awaitPayload maxPayload { d with cmd := b, acc := crcStep 0x0000#16 b } := by
  simp only [rxCmd, awaitPayload, hcnt, eq_comm]

/-- Unit D with a payload byte stored, summed and counted (42_frame_decoder.md R147). -/
def UnitD.withByte (maxPayload b : Byte) (d : UnitD) : UnitD :=
  { d with
    buf := if d.cnt.toNat < maxPayload.toNat then d.buf.set d.cnt.toNat b else d.buf
    acc := crcStep d.acc b
    cnt := d.cnt + 1#8 }

/-- A payload byte that is still awaited is taken, and unit D is between two bytes again (42_frame_decoder.md R147). -/
theorem receiveD_awaitPayload {maxPayload : Byte} (b : Byte) {d : UnitD} (hmore : d.cnt.toNat < d.len.toNat) :
    rxEnabled (awaitPayload maxPayload d) = true ∧
      receiveD maxPayload b (awaitPayload maxPayload d) = awaitPayload maxPayload (d.withByte maxPayload b) := by
  have hne : d.cnt ≠ d.len := fun h => hmore.ne (by rw [h])
  have hlast : d.cnt.toNat + 1 = d.len.toNat ↔ d.cnt + 1#8 = d.len := by bv_omega
  have hawait : awaitPayload maxPayload d = { d with state := .pay } := if_neg hne
  rw [hawait, receiveD_of_pay rfl, awaitPayload, ← completeD_withState maxPayload .pay]
  refine ⟨rfl, ?_⟩
  simp only [rxPay, hlast]
  rfl

/-- Unit D with the rest of a payload received: stored, summed and counted. -/
def UnitD.withRest (maxPayload : Byte) (payload : List Byte) (d : UnitD) : UnitD :=
  { d with
    buf := storeFrom maxPayload d.cnt.toNat payload d.buf
    acc := crcFold d.acc payload
    cnt := d.len }

/-- The rest of a payload is taken to its last byte, with which the verdict is reached (42_frame_decoder.md R147,
R148). -/
theorem takesAll_payload {maxPayload : Byte} (payload : List Byte) {d : UnitD}
    (hrest : d.cnt.toNat + payload.length = d.len.toNat) :
    takesAll maxPayload payload (awaitPayload maxPayload d) (completeD maxPayload (d.withRest maxPayload payload)) := by
  induction payload generalizing d with
  | nil =>
    have hcnt : d.cnt = d.len := BitVec.eq_of_toNat_eq hrest
    have hnone : d.withRest maxPayload [] = d := congrArg (fun n => { d with cnt := n }) hcnt.symm
    rw [takesAll, awaitPayload, if_pos hcnt, hnone]
  | cons b payload ih =>
    rw [List.length_cons] at hrest
    have hnext : (d.cnt + 1#8).toNat = d.cnt.toNat + 1 := by bv_omega
    obtain ⟨hon, hbyte⟩ := receiveD_awaitPayload (maxPayload := maxPayload) b (d := d) (by omega)
    have htaken : (d.withByte maxPayload b).withRest maxPayload payload = d.withRest maxPayload (b :: payload) := by
      simp only [UnitD.withByte, UnitD.withRest, storeFrom, crcFold_cons, hnext]
    rw [← htaken, takesAll, hbyte]
    exact ⟨hon, ih (by simp only [UnitD.withByte, hnext]; omega)⟩

/-- Unit D with one whole frame received, before its verdict. -/
def UnitD.received (maxPayload cmd len : Byte) (crc : Half) (payload : List Byte) (d : UnitD) : UnitD :=
  { d with
    len := len
    crc := crc
    cmd := cmd
    cnt := len
    buf := storeFrom maxPayload 0 payload d.buf
    acc := crc16 (cmd :: payload) }

/-- From a frame boundary every byte of a whole frame is taken, and with the last the verdict is reached
(42_frame_decoder.md R143 to R148, R155). -/
theorem takesAll_frame {maxPayload len : Byte} {payload : List Byte} {d : UnitD} (hboundary : d.state = .len)
    (hlen : payload.length = len.toNat) (hi lo cmd : Byte) :
    takesAll maxPayload (len :: hi :: lo :: cmd :: payload) d
      (completeD maxPayload (d.received maxPayload cmd len (hi ++ lo) payload)) := by
  have hcrc : (rxCrcL lo (rxCrcH hi (rxLen len d))).crc = hi ++ lo :=
    congrArg (· ++ lo) BitVec.extractLsb'_append_eq_left
  have hreceived :
      UnitD.withRest maxPayload payload
        { rxCrcL lo (rxCrcH hi (rxLen len d)) with cmd := cmd, acc := crcStep 0x0000#16 cmd } =
      { d.received maxPayload cmd len (hi ++ lo) payload with state := .cmd } := by
    rw [← hcrc]
    rfl
  have hpayload := takesAll_payload (maxPayload := maxPayload) payload
    (d := { rxCrcL lo (rxCrcH hi (rxLen len d)) with cmd := cmd, acc := crcStep 0x0000#16 cmd })
    (by simpa using hlen)
  rw [hreceived, completeD_withState, ← rxCmd_eq_awaitPayload rfl] at hpayload
  simp only [takesAll]
  rw [receiveD_of_len hboundary, receiveD_of_crcH rfl, receiveD_of_crcL rfl, receiveD_of_cmd rfl]
  exact ⟨by simp [rxEnabled, hboundary], rfl, rfl, rfl, hpayload⟩

/-! ### Frame instructions -/

/-- A frame instruction at a frame boundary (42_frame_decoder.md R155, log 21). -/
theorem exec_frame {i : Instr} {s : State} (hport : i.port = .frame) (hboundary : s.d.state = .len) :
    exec i s = .next { s with d := receiveAll s.params.maxPayload (encode i) s.d } := by
  have hon : frameEnabled s.d = true := beq_iff_eq.2 hboundary
  cases i with
  | abort _ _ _ | load _ _ _ | jump _ _ _ | reservedCmd _ _ _ _ => exact occurs_of_enabled hon _ _
  | _ => cases hport

/-- Settles O34: both are `receiveAll` of the frame's bytes. -/
theorem frameInstructionIsItsBytes : Obligations.FrameInstructionIsItsBytes := fun _ s hport _ hboundary =>
  (exec_frame hport hboundary).trans (execAll_dRx _ s).symm

theorem takesAll_frameWire {maxPayload len : Byte} {payload : List Byte} {d : UnitD} (hboundary : d.state = .len)
    (hlen : payload.length = len.toNat) (cmd : Byte) (crc : Half) :
    takesAll maxPayload (frameWire cmd len crc payload) d
      (completeD maxPayload (d.received maxPayload cmd len crc payload)) := by
  have hcrc : crc.extractLsb' 8 8 ++ crc.extractLsb' 0 8 = crc :=
    (fromBe16_extractLsb' crc 0).trans BitVec.extractLsb'_eq_self
  have hframe := takesAll_frame (maxPayload := maxPayload) hboundary hlen (crc.extractLsb' 8 8)
    (crc.extractLsb' 0 8) cmd
  rwa [hcrc] at hframe

/-- Unit D after a frame instruction: the frame received, and its verdict reached. -/
theorem exec_frame_of_length {i : Instr} {cmd len : Byte} {crc : Half} {payload : List Byte} {s : State}
    (hport : i.port = .frame) (hwire : encode i = frameWire cmd len crc payload) (hboundary : s.d.state = .len)
    (hlen : payload.length = len.toNat) :
    exec i s = .next { s with
      d := completeD s.params.maxPayload (s.d.received s.params.maxPayload cmd len crc payload) } := by
  rw [exec_frame hport hboundary, hwire, receiveAll_of_takesAll (takesAll_frameWire hboundary hlen cmd crc)]

/-! ### The end of a frame -/

section Complete

variable {maxPayload : Byte} {d : UnitD}

@[simp] theorem completeD_verdict (maxPayload : Byte) (d : UnitD) :
    (completeD maxPayload d).verdict = verdictOf maxPayload d.len d.crc d.cmd d.acc := by
  rcases completeD_cases maxPayload d with ⟨hv, h⟩ | ⟨_, h⟩ <;> rw [h]
  · rw [hv, acceptFrame_verdict]
  · rw [takeOutcome_verdict]

theorem completeD_of_accept (hv : verdictOf maxPayload d.len d.crc d.cmd d.acc = .accept) :
    completeD maxPayload d = acceptFrame d := by
  rcases completeD_cases maxPayload d with ⟨_, h⟩ | ⟨hne, _⟩
  · exact h
  · exact absurd hv hne

theorem completeD_of_refuse {v : Verdict} (hv : verdictOf maxPayload d.len d.crc d.cmd d.acc = v) (hne : v ≠ .accept) :
    completeD maxPayload d = takeOutcome v d := by
  rcases completeD_cases maxPayload d with ⟨haccept, _⟩ | ⟨_, h⟩
  · exact absurd (hv.symm.trans haccept) hne
  · rw [h, hv]

/-- Unit D has refused a frame: the reply byte of the verdict waits and the executor is shown nothing
(42_frame_decoder.md R148, R154). -/
def UnitD.refused (v : Verdict) (reply : Byte) (d : UnitD) : Prop :=
  d.state = .rply ∧ d.verdict = v ∧ d.reply = reply ∧ executorView d = none

theorem completeD_refused {v : Verdict} (hv : verdictOf maxPayload d.len d.crc d.cmd d.acc = v) (hne : v ≠ .accept) :
    (completeD maxPayload d).refused v (replyEncode v false) := by
  rw [completeD_of_refuse hv hne]
  exact ⟨rfl, rfl, rfl, rfl⟩

end Complete

section Received

variable {maxPayload cmd len : Byte} {crc : Half} {payload : List Byte} {d : UnitD}

/-- A payload within the cap is in the buffer whole (42_frame_decoder.md R147, R154). -/
theorem acceptFrame_received_payload (hdepth : d.buf.length = maxPayload.toNat) (hlen : payload.length = len.toNat)
    (hfit : len.toNat ≤ maxPayload.toNat) :
    (acceptFrame (d.received maxPayload cmd len crc payload)).payload = payload := by
  have hstored := take_storeFrom_zero (payload := payload) hdepth
  rwa [hlen, min_eq_left hfit, List.take_of_length_le (by omega : payload.length ≤ _)] at hstored

/-- The executor reads an accepted frame as it was sent (42_frame_decoder.md R154). -/
theorem executorView_received (hdepth : d.buf.length = maxPayload.toNat) (hlen : payload.length = len.toNat)
    (hfit : len.toNat ≤ maxPayload.toNat) :
    executorView (acceptFrame (d.received maxPayload cmd len crc payload)) =
      some { cmd := cmd, len := len, buf := payload } := by
  have hview : executorView (acceptFrame (d.received maxPayload cmd len crc payload)) =
      some { cmd := cmd, len := len, buf := (acceptFrame (d.received maxPayload cmd len crc payload)).payload } := rfl
  rw [hview, acceptFrame_received_payload hdepth hlen hfit]

/-- LOAD's operands are read from the payload (42_frame_decoder.md R159). -/
theorem commandOf_received_load (hdepth : d.buf.length = maxPayload.toNat) (hlen : payload.length = len.toNat)
    (hfit : len.toNat ≤ maxPayload.toNat) :
    commandOf (acceptFrame (d.received maxPayload cmdLoad len crc payload)) =
      .load (addrField payload) (payload.drop 4) := by
  rw [commandOf_of_load rfl, acceptFrame_received_payload hdepth hlen hfit]

/-- JUMP's operand is read from the payload (42_frame_decoder.md R160). -/
theorem commandOf_received_jump (hdepth : d.buf.length = maxPayload.toNat) (hlen : payload.length = len.toNat)
    (hfit : len.toNat ≤ maxPayload.toNat) :
    commandOf (acceptFrame (d.received maxPayload cmdJump len crc payload)) = .jump (addrField payload) := by
  rw [commandOf_of_jump rfl, acceptFrame_received_payload hdepth hlen hfit]

/-- A frame is answered by the first two checks where they fail (42_frame_decoder.md R150); `passed` is what comes of
one that passes them. -/
theorem received_checks {passed : Prop} (maxPayload cmd len : Byte) (crc : Half) (payload : List Byte) (d : UnitD)
    (hpass : crc16 (cmd :: payload) = crc → len.toNat ≤ maxPayload.toNat → passed) :
    if crc ≠ crc16 (cmd :: payload) then
      (completeD maxPayload (d.received maxPayload cmd len crc payload)).refused .crc 0x43#8
    else if maxPayload.toNat < len.toNat then
      (completeD maxPayload (d.received maxPayload cmd len crc payload)).refused .oversize 0x45#8
    else passed := by
  split_ifs with hcrc hover
  · exact completeD_refused (verdictOf_of_acc_ne (Ne.symm hcrc)) (by decide)
  · exact completeD_refused (verdictOf_of_oversize (not_not.1 hcrc).symm hover) (by decide)
  · exact hpass (not_not.1 hcrc).symm (Nat.not_lt.1 hover)

end Received

/-- A payload of four bytes or more begins with an ADDR field. -/
theorem exists_eq_addr_append_data {payload : List Byte} (h : 4 ≤ payload.length) :
    ∃ p0 p1 p2 p3 data, payload = p0 :: p1 :: p2 :: p3 :: data := by
  match payload, h with
  | p0 :: p1 :: p2 :: p3 :: data, _ => exact ⟨p0, p1, p2, p3, data, rfl⟩

/-- Settles O35: a frame that passes the first two checks is accepted. -/
theorem abortFrameIsHandedOver : Obligations.AbortFrameIsHandedOver := by
  intro len crc payload s hboundary hdepth hlen
  refine ⟨_, exec_frame_of_length rfl rfl hboundary hlen, rfl, received_checks _ _ _ _ _ _ fun hcrc hfit => ?_⟩
  rw [completeD_of_accept (verdictOf_of_abort hcrc hfit)]
  exact ⟨rfl, rfl, commandOf_of_abort rfl, executorView_received hdepth hlen hfit⟩

/-- Settles O36: a frame that passes the first two checks is accepted if it has an ADDR field. -/
theorem loadFrameIsHandedOver : Obligations.LoadFrameIsHandedOver := by
  intro len crc payload s hboundary hdepth hlen
  refine ⟨_, exec_frame_of_length rfl rfl hboundary hlen, rfl, received_checks _ _ _ _ _ _ fun hcrc hfit => ?_⟩
  have hverdict := verdictOf_of_load hcrc hfit
  split_ifs with hshort
  · exact completeD_refused (hverdict.trans (if_pos hshort)) (by decide)
  · rw [completeD_of_accept (hverdict.trans (if_neg hshort))]
    have hcommand := commandOf_received_load (crc := crc) hdepth hlen hfit
    have hview := executorView_received (cmd := cmdLoad) (crc := crc) hdepth hlen hfit
    obtain ⟨p0, p1, p2, p3, data, rfl⟩ := exists_eq_addr_append_data (payload := payload) (by omega)
    exact ⟨rfl, rfl, p0, p1, p2, p3, data, rfl, hcommand, hview⟩

/-- Settles O37: a frame that passes the first two checks is accepted if its payload is an ADDR field. -/
theorem jumpFrameIsHandedOver : Obligations.JumpFrameIsHandedOver := by
  intro len crc payload s hboundary hdepth hlen
  refine ⟨_, exec_frame_of_length rfl rfl hboundary hlen, rfl, received_checks _ _ _ _ _ _ fun hcrc hfit => ?_⟩
  have hverdict := verdictOf_of_jump hcrc hfit
  split_ifs with hform
  · exact completeD_refused (hverdict.trans (if_pos hform)) (by decide)
  · rw [completeD_of_accept (hverdict.trans (if_neg hform))]
    have hcommand := commandOf_received_jump (crc := crc) hdepth hlen hfit
    have hview := executorView_received (cmd := cmdJump) (crc := crc) hdepth hlen hfit
    have hfour : payload.length = 4 := hlen.trans (congrArg BitVec.toNat (not_not.1 hform))
    obtain ⟨p0, p1, p2, p3, data, rfl⟩ := exists_eq_addr_append_data hfour.ge
    obtain rfl : data = [] := by simpa using hfour
    exact ⟨rfl, rfl, p0, p1, p2, p3, rfl, hcommand, hview⟩

/-- Settles O38: the reserved command fails the third check where the first two pass. -/
theorem reservedFrameIsUnknown : Obligations.ReservedFrameIsUnknown := by
  intro cmd len crc payload s hboundary hlen hcmd
  refine ⟨_, exec_frame_of_length rfl rfl hboundary hlen, rfl, ?_⟩
  have hchecks := received_checks s.params.maxPayload cmd len crc payload s.d fun hcrc hfit =>
    completeD_refused (d := s.d.received s.params.maxPayload cmd len crc payload)
      (verdictOf_of_reserved hcrc hfit hcmd) (by decide)
  split_ifs at hchecks ⊢
  all_goals
    obtain ⟨hstate, hverdict, hreply, hview⟩ := hchecks
    exact ⟨hstate, hview, hverdict, hreply⟩

/-- Settles O33: the frame's bytes are all taken, and `completeD` keeps what was received. -/
theorem decoderComputesParseFrame : Obligations.DecoderComputesParseFrame := by
  intro s bytes f hboundary hdepth hparse hrest
  obtain ⟨len, hi, lo, cmd, payload, rest, rfl, hlen, rfl⟩ := parseFrame_eq_some hparse
  obtain rfl : rest = [] := hrest
  have hrun := execAll_dRx (len :: hi :: lo :: cmd :: payload) s
  rw [receiveAll_of_takesAll (takesAll_frame hboundary hlen hi lo cmd)] at hrun
  rw [List.append_nil]
  refine ⟨_, hrun, rfl, ?_⟩
  obtain ⟨hlen', hcrc', hcmd', hcnt', hbuf', hacc'⟩ := completeD_frame s.params.maxPayload
    (s.d.received s.params.maxPayload cmd len (hi ++ lo) payload)
  refine ⟨hlen', hcrc', hcmd', hcnt', hacc', completeD_verdict _ _, ?stored, ?accepted, ?refused⟩
  case stored =>
    have hstored := take_storeFrom_zero (payload := payload) hdepth
    rw [hlen] at hstored
    exact (congrArg (List.take _) hbuf').trans hstored
  case accepted =>
    intro hv
    exact congrArg UnitD.state (completeD_of_accept (d := s.d.received _ cmd len (hi ++ lo) payload) hv)
  case refused =>
    intro hv
    obtain ⟨hstate, _, hreply, _⟩ := completeD_refused (d := s.d.received _ cmd len (hi ++ lo) payload) rfl hv
    exact ⟨hstate, hreply⟩

/-! ### Frames that unit E emits -/

/-- An undamaged frame of a command within the cap fails no check but that of its form (42_frame_decoder.md R150). -/
theorem verdictOf_eq_accept_or_format {maxPayload len cmd : Byte} {crcRx acc : Half} (hcrc : acc = crcRx)
    (hfit : len.toNat ≤ maxPayload.toNat) (hcmd : isCommand cmd = true) :
    verdictOf maxPayload len crcRx cmd acc = .accept ∨ verdictOf maxPayload len crcRx cmd acc = .format := by
  rw [verdictOf_of_command hcrc hfit hcmd]
  split_ifs <;> simp

/-- Settles O39: the bytes emitted are LEN, the checksum, CMD and PAYLOAD (O4), which `parse_frame` reads back. -/
theorem emittedFrameIsNeverDamaged : Obligations.EmittedFrameIsNeverDamaged := by
  intro maxPayload cmd payload hcmd hfit
  obtain ⟨_, len, hi, lo, hbytes, hlen, hcrc⟩ :=
    encodeLaysOutTheFrame cmd payload (hfit.trans (Nat.le_of_lt_succ maxPayload.isLt))
  have hparse := parseFrame_cons hlen.symm maxPayload hi lo cmd []
  rw [List.append_nil, ← hbytes] at hparse
  exact ⟨_, hparse, rfl, rfl, rfl, verdictOf_eq_accept_or_format hcrc.symm (hlen.trans_le hfit) hcmd⟩

/-! ### What reaches the target -/

/-- Only the executor's report touches the target (42_frame_decoder.md R151, R152). -/
theorem exec_target_cases {i : Instr} {s t : State} (h : exec i s = .next t) :
    t.target = s.target ∨ ∃ ok, i = .dDone ok ∧ s.d.state = .exec ∧ t.d = doneD ok s.d := by
  cases i with
  | dDone ok =>
    exact (eq_or_of_occurs h).imp (congrArg State.target) fun ⟨hon, ht⟩ =>
      ⟨ok, rfl, beq_iff_eq.1 hon, congrArg State.d ht⟩
  | abort _ _ _ | load _ _ _ | jump _ _ _ | reservedCmd _ _ _ _ | dRx _ | dTx =>
    exact .inl (congrArg State.target (exec_sameButPort h) :)
  | eBegin _ | ePush _ | eEnd | ePop | eResend | eRelease => exact .inl (congrArg State.target (exec_sameButPort h) :)
  | cClr | cUpd _ | cVal | rDec _ => exact .inl (congrArg State.target (exec_sameButPort h) :)
  | rplK | rplC | rplU | rplE | rplOther _ => exact .inl (congrArg State.target (exec_sameButPort h) :)
  | send _ _ | upload _ _ | boot _ _ _ => exact .inl (congrArg State.target (exec_sameButPort h) :)

/-- A step that changes the target finds a command at the executor, which it ends with a reply unless it is a reset
(logs 23, 25). -/
theorem step_target_cases {s t : State} (h : step s = .next t) :
    t.target = s.target ∨ (s.d.state = .exec ∧ (t.d.state = .rply ∨ s.move = .reset)) := by
  rcases step_cases h with ⟨hmove, rfl⟩ | hq | ⟨i, u, _, hq, hexec⟩
  · rcases abandonCommand_cases s.takeTurn with ⟨hs, _⟩ | ⟨_, hkeep⟩
    · exact .inr ⟨hs, .inr hmove⟩
    · exact .inl hkeep
  · exact .inl (congrArg State.target hq :)
  · have hu : u.d = s.d ∧ u.target = s.target := ⟨(congrArg State.d hq :), (congrArg State.target hq :)⟩
    rcases exec_target_cases hexec with hkeep | ⟨ok, _, hs, hdone⟩
    · exact .inl (hkeep.trans hu.2)
    · exact .inr ⟨hu.1 ▸ hs, .inl (by rw [hdone, doneD_state])⟩

/-- Settles O58: the invariant says what a command at the executor was accepted for. -/
theorem onlyAcceptedFramesReachTarget : Obligations.OnlyAcceptedFramesReachTarget := by
  intro s t hs h hchange
  rcases step_target_cases h with hkeep | ⟨hexec, hend⟩
  · exact absurd hkeep hchange
  · obtain ⟨hverdict, hcrc, hacc, hlen, _, hcmd, _⟩ := hs.decoder.accepted hexec
    exact ⟨hexec, hverdict, hcrc.symm.trans hacc, hlen, (isCommand_iff_toNat_le _).1 hcmd, hend⟩

end Sys2Proof.Machine
end

section
/-! PROOF. A LOAD from end to end (95_test_vectors.md P1): what SEND writes, what the link delivers, what the executor
reports and what the producer reads, each as the steps of the agent whose turns they are. -/

namespace Sys2Proof.Machine

/-! ### Several steps -/

theorem step_total (s : State) : ∃ t, step s = .next t := by
  cases h : turnOf s with
  | quiet t => exact ⟨t, step_of_quiet h⟩
  | run i t =>
    rw [step_of_run h]
    exact exec_total i t

theorem run_succ_of_step {n : Nat} {s t : State} (h : step s = .next t) :
    Host.Core.run core (n + 1) s = Host.Core.run core n t := by
  have hstep : core.step s = .next t := h
  simp only [Host.Core.run, hstep]

theorem run_add_of_run {m n : Nat} {s t : State} (h : Host.Core.run core m s = .next t) :
    Host.Core.run core (m + n) s = Host.Core.run core n t := by
  induction m generalizing s with
  | zero =>
    cases h
    rw [Nat.zero_add]
  | succ m ih =>
    obtain ⟨u, hu⟩ := step_total s
    rw [run_succ_of_step hu] at h
    rw [Nat.add_right_comm, run_succ_of_step hu, ih h]

/-! ### SEND -/

/-- A frame that fits is written whole and its reply awaited (44_link_protocol.md R181). -/
theorem writeFrame_of_fit {cmd : Byte} {payload : List Byte} {s : State} (job : Job) (hidle : s.e.state = .idle)
    (hdepth : s.e.buf.length = s.params.maxPayload.toNat) (hcmd : isCommand cmd = true)
    (hfit : payload.length ≤ s.params.maxPayload.toNat) :
    writeFrame cmd payload job s = { s with
      e := (s.e.written s.params.maxPayload cmd payload).sent
      ports := s.ports ++ [.status .ok] ++ wireOutputs (encodeFrame cmd payload)
      link := { s.link with fwd := s.link.fwd ++ encodeFrame cmd payload }
      producer := { s.producer with job := some job } } := by
  have hovf : ¬(s.e.filled s.params.maxPayload cmd payload).ovf = true := mt UnitE.filled_ovf_iff.1 (Nat.not_lt.2 hfit)
  have hwritten : writeFrame cmd payload job s =
      popFrame { endFrame { s with e := s.e.filled s.params.maxPayload cmd payload } with
        producer := { s.producer with job := some job } } := if_neg hovf
  rw [hwritten, endFrame_filled_of_fit hfit,
    popFrame_of_send rfl rfl (UnitE.written_inv hcmd (UnitE.inv_of_idle hdepth hidle)),
    UnitE.written_frame hdepth hfit]

theorem exec_send_of_fit {cmd : Byte} {payload : List Byte} {s : State} (hjob : s.producer.job = none)
    (hidle : s.e.state = .idle) (hdepth : s.e.buf.length = s.params.maxPayload.toNat) (hcmd : isCommand cmd = true)
    (hfit : payload.length ≤ s.params.maxPayload.toNat) :
    exec (.send cmd payload) s = .next { s with
      e := (s.e.written s.params.maxPayload cmd payload).sent
      ports := s.ports ++ [.status .ok] ++ wireOutputs (encodeFrame cmd payload)
      link := { s.link with fwd := s.link.fwd ++ encodeFrame cmd payload }
      producer := { s.producer with job := some .send } } := by
  have hon : sendEnabled cmd s = true := by simp [sendEnabled, beginEnabled, hjob, hidle, hcmd]
  rw [← writeFrame_of_fit .send hidle hdepth hcmd hfit]
  exact occurs_of_enabled hon _ _

/-- Success ends a SEND whose frame is held (44_link_protocol.md R181). -/
theorem exec_rplK_of_send {s : State} (hjob : s.producer.job = some .send) (hdone : s.e.state = .done) :
    exec .rplK s = .next { s with
      e := releaseE s.e
      ports := s.ports ++ [.decoded .success]
      producer := { job := none, result := some .sendOk } } := by
  have harrives : replyArrives [replyK] s = finish .sendOk { s.emit (.decoded .success) with e := releaseE s.e } := by
    rcases replyArrives_cases [replyK] s with ⟨job, hj, _, h⟩ | ⟨hnone | hheld, _⟩
    · obtain rfl : job = .send := Option.some.inj (hj.symm.trans hjob)
      exact h
    · simp [hjob] at hnone
    · exact absurd hdone hheld
  exact congrArg Host.Outcome.next harrives

/-! ### The agents' turns -/

/-- A step whose turn offers an enabled event runs it (00_scope.md R13). -/
theorem step_of_offer {i : Instr} {s taken waiting : State} (hturn : turnOf s = offer i taken waiting)
    (hon : enabled i waiting = true) : step s = exec i taken :=
  step_of_run (hturn.trans (if_pos hon))

section Turns

variable {s : State} {moves : List Move}

theorem turnOf_link {act : LinkAct} (hmoves : s.moves = .link act :: moves) (hlink : s.params.drivers.link = .agent) :
    turnOf s = linkTurn act s.takeTurn := by
  simp [turnOf, move_of_moves hmoves, hlink]

theorem turnOf_executor {ok : Bool} (hmoves : s.moves = .executor ok :: moves)
    (hexecutor : s.params.drivers.executor = .agent) : turnOf s = offer (.dDone ok) s.takeTurn s.takeTurn := by
  simp [turnOf, move_of_moves hmoves, hexecutor]

theorem turnOf_replyOut (hmoves : s.moves = .replyOut :: moves) (hlink : s.params.drivers.link = .agent) :
    turnOf s = offer .dTx s.takeTurn s.takeTurn := by
  simp [turnOf, move_of_moves hmoves, hlink]

theorem turnOf_producer {act : LinkAct} (hmoves : s.moves = .producer act :: moves)
    (hlink : s.params.drivers.link = .agent) : turnOf s = replyTurn act s.takeTurn := by
  simp [turnOf, move_of_moves hmoves, hlink]

theorem linkTurn_deliver {b : Byte} {rest : List Byte} (hfwd : s.link.fwd = b :: rest) (mask : Byte) :
    linkTurn (.deliver mask) s = offer (.dRx (b ^^^ mask)) (s.withFwd rest) s := by
  simp [linkTurn, hfwd]

theorem replyTurn_deliver {b : Byte} {rest : List Byte} (hback : s.link.back = b :: rest) (mask : Byte) :
    replyTurn (.deliver mask) s = offer (readReply (b ^^^ mask) s) (s.withBack rest) s := by
  simp [replyTurn, hback]

/-- A byte that the link delivers is a D.RX where unit D takes it (44_link_protocol.md R180). -/
theorem step_deliver {b mask : Byte} {rest : List Byte} (hmoves : s.moves = .link (.deliver mask) :: moves)
    (hlink : s.params.drivers.link = .agent) (hfwd : s.link.fwd = b :: rest) (hon : rxEnabled s.d = true) :
    step s = .next { s with
      d := receiveD s.params.maxPayload (b ^^^ mask) s.d
      link := { s.link with fwd := rest }
      moves := moves
      tick := s.tick + 1 } := by
  have hturn := (turnOf_link hmoves hlink).trans (linkTurn_deliver (s := s.takeTurn) hfwd mask)
  rw [step_of_offer hturn hon, exec_dRx, takeTurn_of_moves hmoves]
  rfl

/-- The report of a command at the executor (42_frame_decoder.md R152). -/
theorem step_report {ok : Bool} (hmoves : s.moves = .executor ok :: moves)
    (hexecutor : s.params.drivers.executor = .agent) (hexec : s.d.state = .exec) :
    step s = .next { s with
      d := doneD ok s.d
      target := carryOut (commandOf s.d) ok (s.tick + 1) s.target
      moves := moves
      tick := s.tick + 1 } := by
  rw [step_of_offer (turnOf_executor hmoves hexecutor) (beq_iff_eq.2 hexec),
    exec_dDone_of_exec (s := s.takeTurn) ok hexec, takeTurn_of_moves hmoves]

/-- The link takes a waiting reply (42_frame_decoder.md R153, 44_link_protocol.md R180). -/
theorem step_replyOut (hmoves : s.moves = .replyOut :: moves) (hlink : s.params.drivers.link = .agent)
    (hrply : s.d.state = .rply) :
    step s = .next { s with
      d := transmitD s.d
      ports := s.ports ++ [.reply s.d.reply]
      link := { s.link with back := s.link.back ++ [s.d.reply] }
      moves := moves
      tick := s.tick + 1 } := by
  rw [step_of_offer (turnOf_replyOut hmoves hlink) (beq_iff_eq.2 hrply), exec_dTx_of_rply (s := s.takeTurn) hrply,
    takeTurn_of_moves hmoves]
  rfl

/-- A Success reply delivered unchanged ends a SEND whose frame is held (44_link_protocol.md R181). -/
theorem step_success {rest : List Byte} (hmoves : s.moves = .producer (.deliver 0#8) :: moves)
    (hlink : s.params.drivers.link = .agent) (hback : s.link.back = replyK :: rest)
    (hjob : s.producer.job = some .send) (hdone : s.e.state = .done) :
    step s = .next { s with
      e := releaseE s.e
      ports := s.ports ++ [.decoded .success]
      link := { s.link with back := rest }
      producer := { job := none, result := some .sendOk }
      moves := moves
      tick := s.tick + 1 } := by
  have hread : readReply (replyK ^^^ 0#8) s.takeTurn = .rplK := if_pos (by simp [hjob])
  have hturn := (turnOf_producer hmoves hlink).trans (replyTurn_deliver (s := s.takeTurn) hback 0#8)
  rw [hread] at hturn
  rw [step_of_offer hturn rfl, exec_rplK_of_send (s := s.takeTurn.withBack rest) hjob hdone, takeTurn_of_moves hmoves]
  rfl

end Turns

/-- The link delivers a whole sequence of bytes unchanged, all of which unit D takes. -/
theorem run_deliver {bytes : List Byte} {s : State} {d : UnitD} {moves : List Move}
    (hmoves : s.moves = List.replicate bytes.length (.link (.deliver 0#8)) ++ moves)
    (hlink : s.params.drivers.link = .agent) (hfwd : s.link.fwd = bytes)
    (htakes : takesAll s.params.maxPayload bytes s.d d) :
    Host.Core.run core bytes.length s = .next { s with
      d := d
      link := { s.link with fwd := [] }
      moves := moves
      tick := s.tick + bytes.length } := by
  induction bytes generalizing s with
  | nil =>
    obtain rfl : d = s.d := htakes
    obtain rfl : s.moves = moves := hmoves
    have hempty : { s.link with fwd := [] } = s.link := by rw [← hfwd]
    rw [hempty]
    rfl
  | cons b bytes ih =>
    obtain ⟨hon, hrest⟩ := htakes
    have hstep := step_deliver hmoves hlink hfwd hon
    rw [BitVec.xor_zero] at hstep
    have hrun := ih (s := { s with
      d := receiveD s.params.maxPayload b s.d
      link := { s.link with fwd := bytes }
      moves := List.replicate bytes.length (.link (.deliver 0#8)) ++ moves
      tick := s.tick + 1 }) rfl hlink rfl hrest
    rw [List.length_cons, run_succ_of_step hstep, Nat.add_comm bytes.length 1, ← Nat.add_assoc]
    exact hrun

/-- The outside's SEND, which fits (44_link_protocol.md R181). -/
theorem step_send {cmd : Byte} {payload : List Byte} {s : State} {moves : List Move}
    (hmoves : s.moves = .outside .send :: moves) (hagenda : s.agenda = [{ port := .send, bytes := cmd :: payload }])
    (hjob : s.producer.job = none) (hidle : s.e.state = .idle)
    (hdepth : s.e.buf.length = s.params.maxPayload.toNat) (hcmd : isCommand cmd = true)
    (hfit : payload.length ≤ s.params.maxPayload.toNat) :
    step s = .next { s with
      e := (s.e.written s.params.maxPayload cmd payload).sent
      ports := s.ports ++ [.status .ok] ++ wireOutputs (encodeFrame cmd payload)
      link := { s.link with fwd := s.link.fwd ++ encodeFrame cmd payload }
      producer := { s.producer with job := some .send }
      agenda := []
      moves := moves
      tick := s.tick + 1 } := by
  have hon : enabled (.send cmd payload) s = true := by simp [enabled, sendEnabled, beginEnabled, hjob, hidle, hcmd]
  have hdrives : outsideDrives .send s = true := by simp [outsideDrives, hjob]
  obtain ⟨hruns, _, _⟩ := stepRunsDecodedInstruction s _ .send _ [] [] moves hmoves hagenda (by simp) rfl
  rw [hruns (.send cmd payload) [] rfl rfl hon hdrives]
  exact exec_send_of_fit (s := { s with moves := moves, tick := s.tick + 1, agenda := [] }) hjob hidle hdepth hcmd hfit

/-! ### A LOAD frame at unit D -/

theorem be32_append_length (addr : Addr) (data : List Byte) : (be32 addr ++ data).length = 4 + data.length := by
  rw [List.length_append]
  rfl

theorem addrField_be32 (addr : Addr) (data : List Byte) : addrField (be32 addr ++ data) = addr :=
  fromBe32_extractLsb' addr

/-- A LOAD frame that passes every check is taken to its last byte and handed over (42_frame_decoder.md R150, R159). -/
theorem takesAll_acceptedLoad {maxPayload len : Byte} {crc : Half} {payload : List Byte} {d : UnitD}
    (hboundary : d.state = .len) (hlen : payload.length = len.toNat) (hcrc : crc16 (cmdLoad :: payload) = crc)
    (hfit : len.toNat ≤ maxPayload.toNat) (haddr : 4 ≤ len.toNat) :
    takesAll maxPayload (frameWire cmdLoad len crc payload) d
      (acceptFrame (d.received maxPayload cmdLoad len crc payload)) := by
  have hverdict := (verdictOf_of_load hcrc hfit).trans (if_neg haddr.not_gt)
  rw [← completeD_of_accept (d := d.received maxPayload cmdLoad len crc payload) hverdict]
  exact takesAll_frameWire hboundary hlen cmdLoad crc

/-- The frame of a LOAD within the cap, delivered unchanged, puts its address and its data before the executor
(42_frame_decoder.md R155, R159). -/
theorem takesAll_emittedLoad {maxPayload : Byte} {addr : Addr} {data : List Byte} {d : UnitD}
    (hboundary : d.state = .len) (hdepth : d.buf.length = maxPayload.toNat)
    (hfit : 4 + data.length ≤ maxPayload.toNat) :
    ∃ d', takesAll maxPayload (encodeFrame cmdLoad (be32 addr ++ data)) d d' ∧ d'.state = .exec ∧
      commandOf d' = .load addr data := by
  have hcap : 4 + data.length < 2 ^ 8 := hfit.trans_lt maxPayload.isLt
  have hlen : (BitVec.ofNat 8 (be32 addr ++ data).length).toNat = 4 + data.length := by
    rw [BitVec.toNat_ofNat, be32_append_length, Nat.mod_eq_of_lt hcap]
  have hpayload := (be32_append_length addr data).trans hlen.symm
  have hcommand := commandOf_received_load (crc := crc16 (cmdLoad :: (be32 addr ++ data))) hdepth hpayload
    (hlen.trans_le hfit)
  rw [addrField_be32] at hcommand
  exact ⟨_, takesAll_acceptedLoad hboundary hpayload rfl (hlen.trans_le hfit) (hlen.symm ▸ Nat.le_add_right 4 _), rfl,
    hcommand⟩

/-- The end of a SEND whose frame was accepted: the executor reports success, the reply is taken, and the producer reads
it (42_frame_decoder.md R152, R153, 44_link_protocol.md R181). -/
theorem run_reply {s : State}
    (hmoves : s.moves = [.executor true, .replyOut, .producer (.deliver 0#8)])
    (hdrivers : s.params.drivers = { link := .agent, executor := .agent }) (hexec : s.d.state = .exec)
    (hback : s.link.back = []) (hjob : s.producer.job = some .send) (hdone : s.e.state = .done) :
    Host.Core.run core 3 s = .next { s with
      e := releaseE s.e
      d := transmitD (doneD true s.d)
      ports := s.ports ++ [.reply replyK] ++ [.decoded .success]
      link := { s.link with back := [] }
      producer := { job := none, result := some .sendOk }
      target := carryOut (commandOf s.d) true (s.tick + 1) s.target
      moves := []
      tick := s.tick + 3 } := by
  have hlink : s.params.drivers.link = .agent := by rw [hdrivers]
  have hexecutor : s.params.drivers.executor = .agent := by rw [hdrivers]
  rw [run_succ_of_step (step_report hmoves hexecutor hexec)]
  refine Eq.trans (run_succ_of_step (step_replyOut rfl hlink rfl)) ?_
  exact run_succ_of_step (step_success rfl hlink (congrArg (· ++ [replyK]) hback) hjob hdone)

/-- Settles O60: the outside's SEND, the link's `8 + n` deliveries, the executor's report, and the reply's two ways. -/
theorem sendLoadReachesTarget : Obligations.SendLoadReachesTarget := by
  intro s addr data hjob hidle hedepth hboundary hddepth hlink hfit hspace hagenda hdrivers hmoves
  have hsend := step_send hmoves hagenda hjob hidle hedepth (by decide) ((be32_append_length addr data).trans_le hfit)
  obtain ⟨d, htakes, hexec, hcommand⟩ := takesAll_emittedLoad (addr := addr) hboundary hddepth hfit
  have hwire : (encodeFrame cmdLoad (be32 addr ++ data)).length = 8 + data.length := by
    rw [encodeFrame_length, be32_append_length, ← Nat.add_assoc]
  have hagent : s.params.drivers.link = .agent := by rw [hdrivers]
  have hcount : 12 + data.length = (encodeFrame cmdLoad (be32 addr ++ data)).length + 3 + 1 := by omega
  rw [hcount, run_succ_of_step hsend]
  refine ⟨_, Eq.trans (run_add_of_run (run_deliver (by rw [hwire]) hagent (by rw [hlink]; rfl) htakes))
    (run_reply rfl hdrivers hexec (by rw [hlink]) rfl rfl), rfl, rfl, rfl, rfl, rfl, ?_⟩
  rw [hcommand]
  exact read_carryOut_load_done hspace _ _

end Sys2Proof.Machine
end

section
/-! PROOF. The reply codec (43_reply_codec.md R171 to R179): what a reply read decodes to, what it changes where no
pseudo-operation can act on it, and what a reply byte that waits says of the frame. -/

namespace Sys2Proof.Machine

/-! ### Decoding a read -/

/-- `replyDecode` without its test for 'U', whose value is also that of everything undefined (43_reply_codec.md R172). -/
theorem replyDecode_eq (read : List Byte) :
    replyDecode read = if read = [0x4B#8] then .success else if read = [0x43#8] then .crcError
      else if read = [0x45#8] then .error else .unknown := by
  by_cases hU : read = [replyU]
  · rw [hU]
    rfl
  · unfold replyDecode
    rw [if_neg hU]
    rfl

theorem replyDecode_of_undefined {read : List Byte} (h : isDefinedReply read = false) : replyDecode read = .unknown := by
  simp only [isDefinedReply, Bool.or_eq_false_iff, beq_eq_false_iff_ne] at h
  obtain ⟨⟨⟨hK, hC⟩, _⟩, hE⟩ := h
  rw [replyDecode_eq, if_neg hK, if_neg hC, if_neg hE]

/-- Settles O41: R.DEC presents the decoded value, in every state. -/
theorem rDecDecodesReply : Obligations.RDecDecodesReply := by
  intro read s
  rw [← replyDecode_eq]
  rfl

/-! ### A reply nothing waits for -/

/-- With no pseudo-operation, or no frame held, a reply read is presented and no more (43_reply_codec.md R173, log 22). -/
theorem replyArrives_of_unawaited {s : State} (h : s.producer.job = none ∨ s.e.state ≠ .done) (read : List Byte) :
    replyArrives read s = s.emit (.decoded (replyDecode read)) := by
  rcases replyArrives_cases read s with ⟨job, hjob, hdone, _⟩ | ⟨_, hpresented⟩
  · simp [hjob, hdone] at h
  · exact hpresented

/-- Settles O42: every row is a reply read of its own bytes, which nothing waits for. -/
theorem unawaitedReplyIsOnlyDecoded : Obligations.UnawaitedReplyIsOnlyDecoded := by
  intro s h
  have hpresented (read : List Byte) : execRplOther read s = .next (s.emit (.decoded (replyDecode read))) :=
    congrArg Host.Outcome.next (replyArrives_of_unawaited h read)
  refine ⟨hpresented [replyK], hpresented [replyC], hpresented [replyU], hpresented [replyE], fun read hwf => ?_⟩
  have hundefined : isDefinedReply read = false := by simpa [Instr.wf] using hwf
  rw [← replyDecode_of_undefined hundefined]
  exact hpresented read

/-! ### What a reply byte says -/

section ReplyEncode

variable (v : Verdict) (ok : Bool)

/-- Only an accepted command's reply depends on the executor's report (43_reply_codec.md R171). -/
theorem replyEncode_eq : replyEncode v ok = if v = .accept ∧ ok = true then 0x4B#8 else if v = .crc then 0x43#8
    else if v = .unknown then 0x55#8 else 0x45#8 := by
  cases v with
  | accept => cases ok <;> rfl
  | crc | unknown | oversize | format => rfl

theorem replyEncode_eq_C_iff : replyEncode v ok = 0x43#8 ↔ v = .crc := by
  rw [replyEncode_eq]
  grind

theorem replyEncode_eq_U_iff : replyEncode v ok = 0x55#8 ↔ v = .unknown := by
  rw [replyEncode_eq]
  grind

theorem replyEncode_eq_K_iff : replyEncode v ok = 0x4B#8 ↔ v = .accept ∧ ok = true := by
  rw [replyEncode_eq]
  grind

theorem replyEncode_mem : replyEncode v ok ∈ [0x4B#8, 0x43#8, 0x55#8, 0x45#8] := by
  rw [replyEncode_eq]
  grind

end ReplyEncode

/-- The reply that waits is the verdict's, for one report or the other of the executor. -/
theorem UnitD.Inv.exists_reply_eq {maxPayload : Byte} {d : UnitD} (hd : d.Inv maxPayload) (hrply : d.state = .rply) :
    ∃ ok, d.reply = replyEncode d.verdict ok :=
  (hd.replying hrply).elim (⟨true, ·⟩) (⟨false, ·⟩)

/-- Settles O59: the invariant ties the reply byte to the verdict, and the code tells the verdicts apart. -/
theorem replyByteTellsVerdict : Obligations.ReplyByteTellsVerdict := by
  intro s hs hrply
  obtain ⟨ok, hreply⟩ := hs.decoder.exists_reply_eq hrply
  rw [hreply]
  exact ⟨replyEncode_eq_C_iff _ ok, replyEncode_eq_U_iff _ ok, fun hK => ((replyEncode_eq_K_iff _ ok).1 hK).1,
    replyEncode_mem _ ok⟩

end Sys2Proof.Machine
end

section
/-! PROOF. The producer's pseudo-operations (44_link_protocol.md R181 to R187): what a reply does to the one that waits
for it, and the frames that SEND, UPLOAD and BOOT write. -/

namespace Sys2Proof.Machine

/-! ### Unit E when its frame is out -/

/-- A frame sent whole is held until its reply (41_frame_encoder.md R125). -/
theorem UnitE.sent_inv {maxPayload : Byte} {e : UnitE} (hsend : e.state = .send) (he : e.Inv maxPayload) :
    e.sent.Inv maxPayload := by
  obtain ⟨hframe, _⟩ := he.sending hsend
  have hend : (BitVec.ofNat 9 (4 + e.len.toNat)).toNat = 4 + e.len.toNat := by bv_omega
  exact UnitE.inv_of_done he.depth rfl hframe hend

/-! ### A reply that a pseudo-operation waits for -/

section Waiting

variable {s : State} {job : Job}

/-- With its frame held, the pseudo-operation that waits goes on by the decoded reply (44_link_protocol.md R181). -/
theorem replyArrives_of_waiting (hjob : s.producer.job = some job) (hdone : s.e.state = .done) (read : List Byte) :
    replyArrives read s = handleReply (replyDecode read) job (s.emit (.decoded (replyDecode read))) := by
  rcases replyArrives_cases read s with ⟨job', hjob', _, h⟩ | ⟨hnone | hheld, _⟩
  · obtain rfl : job' = job := Option.some.inj (hjob'.symm.trans hjob)
    exact h
  · simp [hjob] at hnone
  · exact absurd hdone hheld

/-- The pseudo-operation ends with the result `r` at a reply: its frame is released (44_link_protocol.md R181). -/
def State.endedBy (reply : Reply) (r : JobResult) (s : State) : State :=
  { s with
    e := { s.e with state := .idle }
    ports := s.ports ++ [.decoded reply]
    producer := { job := none, result := some r } }

/-- Every failing reply ends the pseudo-operation with the failure it names (44_link_protocol.md R181, R184, R186). -/
theorem exec_failingReply (hjob : s.producer.job = some job) (hdone : s.e.state = .done) :
    exec .rplU s = .next (s.endedBy .unknown (failedResult job .unknown)) ∧
    exec .rplE s = .next (s.endedBy .error (failedResult job .error)) ∧
    ∀ read, (Instr.rplOther read).wf = true →
      exec (.rplOther read) s = .next (s.endedBy .unknown (failedResult job .unknown)) := by
  have hreply (read : List Byte) : execRplOther read s =
      .next (handleReply (replyDecode read) job (s.emit (.decoded (replyDecode read)))) :=
    congrArg Host.Outcome.next (replyArrives_of_waiting hjob hdone read)
  refine ⟨hreply [replyU], hreply [replyE], fun read hwf => (hreply read).trans ?_⟩
  have hundefined : isDefinedReply read = false := by simpa [Instr.wf] using hwf
  rw [replyDecode_of_undefined hundefined]
  rfl

/-- Success releases the frame, and the pseudo-operation goes on (44_link_protocol.md R181, R184, R186). -/
theorem exec_rplK_of_waiting (hjob : s.producer.job = some job) (hdone : s.e.state = .done) :
    exec .rplK s = .next (jobSucceeded job { s.emit (.decoded .success) with e := releaseE s.e }) :=
  congrArg Host.Outcome.next (replyArrives_of_waiting hjob hdone [replyK])

end Waiting

/-- Settles O43: 'K' is the one reply that succeeds, the others fail as `failedResult` of a SEND says. -/
theorem replyEndsSend : Obligations.ReplyEndsSend := fun _ hjob hdone =>
  ⟨exec_rplK_of_send hjob hdone, exec_failingReply hjob hdone⟩

/-- Settles O50: what the statement names is `failedResult` of the job that waits. -/
theorem uploadStopsAtFailure : Obligations.UploadStopsAtFailure := by
  intro job s failed ended hjob hdone hfailed hended
  obtain rfl : failed = failedResult job := by
    rcases hfailed with ⟨image, cur, pos, k, entry, rfl, hf⟩ | ⟨rfl, hf⟩ <;> exact hf
  simp only [hended]
  exact exec_failingReply hjob hdone

/-- Settles O44: the resend is a whole frame popped again, after which unit E is as it was. -/
theorem crcReplyResendsIdenticalFrame : Obligations.CrcReplyResendsIdenticalFrame := by
  intro s job hjob he hdone
  obtain ⟨_, hidx⟩ := he.held hdone
  have hback : (resendE s.e).sent = s.e := UnitE.sent_eq_self hdone hidx
  have hpop := popFrame_of_send (s := { s.emit (.decoded .crcError) with e := resendE s.e }) rfl rfl
    (resendE_inv hdone he)
  simp only [hback, emit_ports, List.append_assoc, List.singleton_append] at hpop
  exact congrArg Host.Outcome.next ((replyArrives_of_waiting hjob hdone [replyC]).trans hpop)

/-- `n` replies 'C' repeat the held frame `n` times (44_link_protocol.md R181, R183). -/
theorem execAll_rplC {s : State} {job : Job} (n : Nat) (hjob : s.producer.job = some job)
    (he : s.e.Inv s.params.maxPayload) (hdone : s.e.state = .done) :
    execAll (List.replicate n .rplC) s = .next { s with
      ports := s.ports ++ (List.replicate n (.decoded .crcError :: wireOutputs s.e.frame)).flatten
      link := { s.link with fwd := s.link.fwd ++ (List.replicate n s.e.frame).flatten } } := by
  induction n generalizing s with
  | zero => simp [execAll]
  | succ n ih =>
    rw [List.replicate_succ, execAll_cons_of_next (crcReplyResendsIdenticalFrame s job hjob he hdone), ih]
    · simp [List.replicate_succ, UnitE.frame]
    · exact hjob
    · exact he
    · exact hdone

/-! ### SEND -/

/-- A frame beyond the cap ends the pseudo-operation with nothing sent (44_link_protocol.md R181). -/
theorem writeFrame_of_oversize {cmd : Byte} {payload : List Byte} {s : State} (job : Job)
    (hlong : s.params.maxPayload.toNat < payload.length) :
    writeFrame cmd payload job s = { s with
      e := rejectE (s.e.filled s.params.maxPayload cmd payload)
      ports := s.ports ++ [.status .reject]
      producer := { job := none, result := some (failedResult job .oversized) } } := by
  have hovf : (s.e.filled s.params.maxPayload cmd payload).ovf = true := UnitE.filled_ovf_iff.2 hlong
  have hfailed : writeFrame cmd payload job s =
      finish (failedResult job .oversized) (endFrame { s with e := s.e.filled s.params.maxPayload cmd payload }) :=
    if_pos hovf
  rw [hfailed, endFrame_of_ovf hovf]
  rfl

theorem exec_send {cmd : Byte} {s : State} (payload : List Byte) (hjob : s.producer.job = none)
    (hidle : s.e.state = .idle) (hcmd : isCommand cmd = true) :
    exec (.send cmd payload) s = .next (writeFrame cmd payload .send s) := by
  have hon : sendEnabled cmd s = true := by simp [sendEnabled, beginEnabled, hjob, hidle, hcmd]
  exact occurs_of_enabled hon _ _

/-- Settles O45: by whether the payload fits, the frame is written whole or rejected by E.END. -/
theorem sendWritesFrameOrFails : Obligations.SendWritesFrameOrFails := by
  intro cmd p s hjob hidle hcmd hdepth
  refine ⟨_, exec_send p hjob hidle hcmd, ?_⟩
  split
  case isTrue hfit =>
    rw [writeFrame_of_fit .send hidle hdepth hcmd hfit]
    refine ⟨?_, rfl, UnitE.written_cmd, UnitE.written_payload hdepth hfit⟩
    simp
  case isFalse hlong =>
    rw [writeFrame_of_oversize .send (Nat.not_le.1 hlong)]
    exact ⟨rfl, rfl⟩

/-- Settles O46: the frame written is held while 'C' repeats it, and 'K' releases it. -/
theorem sendRetriesUntilSuccess : Obligations.SendRetriesUntilSuccess := by
  intro cmd p n s hjob hidle hcmd hdepth hfit
  have he := UnitE.sent_inv rfl (UnitE.written_inv (payload := p) hcmd (UnitE.inv_of_idle hdepth hidle))
  have hframe : (s.e.written s.params.maxPayload cmd p).sent.frame = encodeFrame cmd p :=
    UnitE.written_frame hdepth hfit
  rw [execAll_cons_of_next (exec_send_of_fit hjob hidle hdepth hcmd hfit),
    execAll_append_of_next (execAll_rplC n rfl he rfl), execAll_cons_of_next (exec_rplK_of_send rfl rfl)]
  refine ⟨_, rfl, rfl, ?_, rfl, rfl⟩
  simp [hframe, List.replicate_succ]

/-! ### The first frame of UPLOAD and BOOT -/

section FirstFrame

variable {image : List Byte} {cur : Addr} {pos : Nat} {s : State}

/-- While bytes of the image are left the next chunk is written as a LOAD frame (44_link_protocol.md R184). -/
theorem nextChunk_of_lt (hleft : pos < image.length) (entry : Option Addr) :
    nextChunk image cur pos entry s =
      writeFrame cmdLoad (chunkPayload cur image pos (chunkSize s.params.maxPayload image pos))
        (.chunk image cur pos (chunkSize s.params.maxPayload image pos) entry) s := if_pos hleft

/-- Behind the last chunk UPLOAD ends (44_link_protocol.md R184). -/
theorem nextChunk_upload_of_le (hend : image.length ≤ pos) :
    nextChunk image cur pos none s = finish (.uploadOk image.length) s := if_neg (Nat.not_lt.2 hend)

/-- Behind the last chunk BOOT writes the JUMP frame (44_link_protocol.md R186). -/
theorem nextChunk_boot_of_le (hend : image.length ≤ pos) (entry : Addr) :
    nextChunk image cur pos (some entry) s = writeFrame cmdJump (be32 entry) .jump s := if_neg (Nat.not_lt.2 hend)

theorem exec_upload (base : Addr) (image : List Byte) (hjob : s.producer.job = none) (hidle : s.e.state = .idle) :
    exec (.upload base image) s = .next (nextChunk image base 0 none s) := by
  have hon : uploadEnabled image s = true := by simp [uploadEnabled, hjob, hidle]
  exact occurs_of_enabled hon _ _

theorem exec_boot (base entry : Addr) (image : List Byte) (hjob : s.producer.job = none) (hidle : s.e.state = .idle) :
    exec (.boot base entry image) s = .next (nextChunk image base 0 (some entry) s) := by
  have hon : bootEnabled s = true := by simp [bootEnabled, hjob, hidle]
  exact occurs_of_enabled hon _ _

theorem chunkPayload_chunkSize_length (maxPayload : Byte) (cur : Addr) (image : List Byte) (pos : Nat) :
    (chunkPayload cur image pos (chunkSize maxPayload image pos)).length = 4 + chunkSize maxPayload image pos := by
  rw [chunkPayload, be32_append_length, List.length_take, List.length_drop, chunkSize]
  omega

/-- Every chunk fits into a LOAD frame (44_link_protocol.md R184, 00_scope.md R10). -/
theorem chunkPayload_fits {maxPayload : Byte} (hcap : 4 ≤ maxPayload.toNat) (cur : Addr) (image : List Byte)
    (pos : Nat) : (chunkPayload cur image pos (chunkSize maxPayload image pos)).length ≤ maxPayload.toNat := by
  rw [chunkPayload_chunkSize_length, chunkSize, chunkMax]
  omega

/-- With a cap below 4 not even the address fits (93_implementation_defined.md U18). -/
theorem chunkPayload_oversize {maxPayload : Byte} (hcap : maxPayload.toNat < 4) (cur : Addr) (image : List Byte)
    (pos : Nat) : maxPayload.toNat < (chunkPayload cur image pos (chunkSize maxPayload image pos)).length := by
  rw [chunkPayload_chunkSize_length]
  omega

end FirstFrame

/-- `t` differs from `s` in what the producer's operations write, with the link as a whole. -/
theorem sameButProducer.link_free {s t : State} (h : sameButProducer s t) :
    t = { s with e := t.e, ports := t.ports, link := t.link, producer := t.producer } := by
  have hlink : t.link = { s.link with fwd := t.link.fwd } := congrArg State.link h
  rwa [sameButProducer, ← hlink] at h

/-- Settles O47: by the cap and the image, which first frame there is and whether it can be encoded. -/
theorem uploadAndBootWriteFirstFrame : Obligations.UploadAndBootWriteFirstFrame := by
  intro base entry image s hjob hidle hdepth
  refine ⟨_, _, exec_upload base image hjob hidle, exec_boot base entry image hjob hidle,
    (nextChunk_sameButProducer _ _ _ _ _).link_free, (nextChunk_sameButProducer _ _ _ _ _).link_free, ?_, ?_⟩
  · rintro rfl
    rfl
  by_cases hempty : image = []
  · subst hempty
    rw [nextChunk_upload_of_le (image := []) (pos := 0) le_rfl, nextChunk_boot_of_le (image := []) (pos := 0) le_rfl]
    split
    case isTrue hsmall =>
      rw [writeFrame_of_oversize .jump hsmall]
      simp [failedResult, rejectE, hidle]
    case isFalse hcap =>
      have hfit : (be32 entry).length ≤ s.params.maxPayload.toNat := Nat.not_lt.1 hcap
      rw [writeFrame_of_fit .jump hidle hdepth (by decide) hfit]
      simp [cmdJump, UnitE.sent]
  · have hleft : 0 < image.length := List.length_pos_iff.2 hempty
    rw [nextChunk_of_lt hleft, nextChunk_of_lt hleft]
    split
    case isTrue hsmall =>
      have hlong := chunkPayload_oversize hsmall base image 0
      rw [writeFrame_of_oversize _ hlong, writeFrame_of_oversize _ hlong]
      simp [failedResult, rejectE, hempty]
    case isFalse hcap =>
      have hfit := chunkPayload_fits (Nat.not_lt.1 hcap) base image 0
      rw [writeFrame_of_fit _ hidle hdepth (by decide) hfit, writeFrame_of_fit _ hidle hdepth (by decide) hfit]
      simp [cmdLoad, UnitE.sent, chunkSize, chunkMax, chunkPayload]

/-! ### UPLOAD and BOOT answered by Success -/

/-- `t` is `s` after the producer's frames `bytes`: unit E is idle again, and nothing outside the producer's part has
changed. -/
structure FramesSent (bytes : List Byte) (s t : State) : Prop where
  same : sameButProducer s t
  fwd : t.link.fwd = s.link.fwd ++ bytes
  idle : t.e.state = .idle
  depth : t.e.buf.length = t.params.maxPayload.toNat

section FramesSent

variable {bytes more : List Byte} {s t u : State}

theorem FramesSent.nil (hidle : s.e.state = .idle) (hdepth : s.e.buf.length = s.params.maxPayload.toNat) :
    FramesSent [] s s := ⟨rfl, (List.append_nil _).symm, hidle, hdepth⟩

theorem FramesSent.append (hst : FramesSent bytes s t) (htu : FramesSent more t u) : FramesSent (bytes ++ more) s u where
  same := sameButProducer_trans hst.same htu.same
  fwd := by rw [htu.fwd, hst.fwd, List.append_assoc]
  idle := htu.idle
  depth := htu.depth

theorem FramesSent.params_eq (h : FramesSent bytes s t) : t.params = s.params := (congrArg State.params h.same :)

theorem FramesSent.link_eq (h : FramesSent bytes s t) : t.link = { s.link with fwd := s.link.fwd ++ bytes } := by
  rw [← h.fwd]
  exact (congrArg State.link h.same :)

/-- A pseudo-operation that ends behind its last frame. -/
theorem FramesSent.finish_eq (h : FramesSent bytes s t) (r : JobResult) :
    finish r t = { s with
      e := (finish r t).e, ports := (finish r t).ports, link := (finish r t).link, producer := (finish r t).producer } :=
  (sameButProducer_trans h.same (u := finish r t) rfl).link_free

/-- A frame that fits, answered by Success, is sent and released, and the pseudo-operation goes on from there
(44_link_protocol.md R181). -/
theorem exec_rplK_writeFrame {cmd : Byte} {payload : List Byte} (job : Job) (hidle : s.e.state = .idle)
    (hdepth : s.e.buf.length = s.params.maxPayload.toNat) (hcmd : isCommand cmd = true)
    (hfit : payload.length ≤ s.params.maxPayload.toNat) :
    ∃ t, exec .rplK (writeFrame cmd payload job s) = .next (jobSucceeded job t) ∧
      FramesSent (encodeFrame cmd payload) s t := by
  have hwritten := UnitE.written_inv (payload := payload) hcmd (UnitE.inv_of_idle hdepth hidle)
  rw [writeFrame_of_fit job hidle hdepth hcmd hfit]
  exact ⟨_, exec_rplK_of_waiting rfl rfl, rfl, rfl, rfl, hwritten.depth⟩

end FramesSent

/-- The LOAD frame of chunk `j`, `c` being the length of every chunk but the last (44_link_protocol.md R184). -/
def loadFrame (base : Addr) (image : List Byte) (c j : Nat) : List Byte :=
  encodeFrame cmdLoad (be32 (base + BitVec.ofNat 32 (j * c)) ++ (image.drop (j * c)).take c)

/-- The LOAD frames of the first `n` chunks in order. -/
def loadFrames (base : Addr) (image : List Byte) (c n : Nat) : List Byte :=
  ((List.range n).map (loadFrame base image c)).flatten

theorem loadFrames_succ (base : Addr) (image : List Byte) (c n : Nat) :
    loadFrames base image c (n + 1) = loadFrames base image c n ++ loadFrame base image c n := by
  simp [loadFrames, List.range_succ]

/-- A chunk reaches to the end of the image at most (44_link_protocol.md R184). -/
theorem chunkPayload_min (cur : Addr) (image : List Byte) (pos c : Nat) :
    chunkPayload cur image pos (min c (image.length - pos)) = be32 cur ++ (image.drop pos).take c := by
  rw [chunkPayload, ← List.length_drop, ← List.take_eq_take_min]

section Chunks

variable {base : Addr} {image : List Byte} {s : State} {c : Nat}

/-- Success at a chunk leads to the head of UPLOAD's loop behind its LOAD frame, at `cur + k` within the address space
(44_link_protocol.md R184, R185). -/
theorem exec_rplK_nextChunk {pos k : Nat} (cur : Addr) (entry : Option Addr) (hidle : s.e.state = .idle)
    (hdepth : s.e.buf.length = s.params.maxPayload.toNat) (hcap : 4 ≤ s.params.maxPayload.toNat)
    (hleft : pos < image.length) (hk : k = chunkSize s.params.maxPayload image pos) :
    ∃ cur' t, exec .rplK (nextChunk image cur pos entry s) = .next (nextChunk image cur' (pos + k) entry t) ∧
      (cur.toNat + k < 2 ^ 32 → cur' = cur + BitVec.ofNat 32 k) ∧
      FramesSent (encodeFrame cmdLoad (chunkPayload cur image pos k)) s t := by
  have hfit := chunkPayload_fits hcap cur image pos
  rw [← hk] at hfit
  rw [nextChunk_of_lt hleft, ← hk]
  obtain ⟨t, hreply, hsent⟩ := exec_rplK_writeFrame (.chunk image cur pos k entry) hidle hdepth (cmd := cmdLoad)
    (by decide) hfit
  exact ⟨_, t, hreply, fun hspace => if_pos hspace, hsent⟩

/-- Success at every chunk so far: the head of UPLOAD's loop behind the first `i` LOAD frames, with the address of the
chunk to come where there is one (44_link_protocol.md R184, R185). -/
theorem execAll_rplK_nextChunk (entry : Option Addr) (hidle : s.e.state = .idle)
    (hdepth : s.e.buf.length = s.params.maxPayload.toNat) (hcap : 4 ≤ s.params.maxPayload.toNat)
    (hc : c = s.params.maxPayload.toNat - 4) (hspace : base.toNat + image.length ≤ 2 ^ 32) (i : Nat)
    (hi : ∀ j < i, j * c < image.length) :
    ∃ cur t, execAll (List.replicate i .rplK) (nextChunk image base 0 entry s) =
        .next (nextChunk image cur (min (i * c) image.length) entry t) ∧
      (i * c < image.length → cur = base + BitVec.ofNat 32 (i * c)) ∧
      FramesSent (loadFrames base image c i) s t := by
  induction i with
  | zero => exact ⟨base, s, by simp [execAll], by simp, FramesSent.nil hidle hdepth⟩
  | succ i ih =>
    obtain ⟨cur, t, hrun, hcur, hsent⟩ := ih fun j hj => hi j (Nat.lt_succ_of_lt hj)
    have hleft := hi i (Nat.lt_succ_self i)
    rw [min_eq_left hleft.le, hcur hleft] at hrun
    have hk : min c (image.length - i * c) = chunkSize t.params.maxPayload image (i * c) := by
      rw [chunkSize, chunkMax, hsent.params_eq, hc]
    obtain ⟨cur', u, hreply, hcur', hframe⟩ := exec_rplK_nextChunk (base + BitVec.ofNat 32 (i * c)) entry hsent.idle
      hsent.depth (hsent.params_eq ▸ hcap) hleft hk
    have hnext : i * c + min c (image.length - i * c) = min ((i + 1) * c) image.length := by
      rw [Nat.succ_mul]
      omega
    rw [chunkPayload_min] at hframe
    rw [hnext] at hreply
    refine ⟨cur', u, ?_, fun hmore => ?_, ?_⟩
    · rw [List.replicate_succ', execAll_append_of_next hrun, execAll_cons_of_next hreply]
      rfl
    · rw [Nat.succ_mul] at hmore
      have hwhole : min c (image.length - i * c) = c := by omega
      have hbelow : (base + BitVec.ofNat 32 (i * c)).toNat + c < 2 ^ 32 := by bv_omega
      rw [hcur' (hwhole.symm ▸ hbelow), hwhole, BitVec.add_assoc, ← BitVec.ofNat_add, ← Nat.succ_mul]
    · rw [loadFrames_succ]
      exact hsent.append hframe

/-- Chunk `j` is one of `n = ceil(length / c)` exactly when it starts within the image. -/
theorem lt_chunkCount_iff {length j : Nat} (hc : 0 < c) : j < (length + c - 1) / c ↔ j * c < length := by
  rw [Nat.lt_iff_add_one_le, Nat.le_div_iff_mul_le hc, Nat.succ_mul]
  omega

/-- Success at every chunk: the end of UPLOAD's loop behind all LOAD frames (44_link_protocol.md R184). -/
theorem execAll_rplK_allChunks {n : Nat} (entry : Option Addr) (hidle : s.e.state = .idle)
    (hdepth : s.e.buf.length = s.params.maxPayload.toNat) (hcap : 4 < s.params.maxPayload.toNat)
    (hc : c = s.params.maxPayload.toNat - 4) (hn : n = (image.length + c - 1) / c)
    (hspace : base.toNat + image.length ≤ 2 ^ 32) :
    ∃ cur t, execAll (List.replicate n .rplK) (nextChunk image base 0 entry s) =
        .next (nextChunk image cur image.length entry t) ∧
      FramesSent (loadFrames base image c n) s t := by
  have hcount (j : Nat) : j < n ↔ j * c < image.length := by
    rw [hn]
    exact lt_chunkCount_iff (by omega)
  obtain ⟨cur, t, hrun, _, hsent⟩ := execAll_rplK_nextChunk entry hidle hdepth hcap.le hc hspace n
    fun j => (hcount j).1
  have hall : image.length ≤ n * c := Nat.not_lt.1 (mt (hcount n).2 (Nat.lt_irrefl n))
  rw [min_eq_right hall] at hrun
  exact ⟨cur, t, hrun, hsent⟩

end Chunks

/-- Settles O48: behind the LOAD frames of all chunks the loop ends with the result. -/
theorem uploadSendsConsecutiveChunks : Obligations.UploadSendsConsecutiveChunks := by
  intro base image s c n hjob hidle hdepth hcap hc hn hspace
  obtain ⟨cur, t, hrun, hsent⟩ := execAll_rplK_allChunks none hidle hdepth hcap hc hn hspace
  rw [nextChunk_upload_of_le le_rfl] at hrun
  exact ⟨_, (execAll_cons_of_next (exec_upload base image hjob hidle) _).trans hrun, hsent.finish_eq _,
    hsent.link_eq, rfl, hsent.idle⟩

/-- Settles O49: behind the LOAD frames the loop writes the JUMP frame, whose reply ends the boot. -/
theorem bootSendsImageThenJump : Obligations.BootSendsImageThenJump := by
  intro base entry image s c n hjob hidle hdepth hcap hc hn hspace
  obtain ⟨cur, t, hrun, hsent⟩ := execAll_rplK_allChunks (some entry) hidle hdepth hcap hc hn hspace
  have hfit : (be32 entry).length ≤ t.params.maxPayload.toNat := hsent.params_eq ▸ hcap.le
  obtain ⟨u, hreply, hjump⟩ := exec_rplK_writeFrame .jump hsent.idle hsent.depth (cmd := cmdJump) (by decide) hfit
  have hall := hsent.append hjump
  rw [nextChunk_boot_of_le le_rfl] at hrun
  refine ⟨_, ?_, hall.finish_eq .bootOk, ?_, rfl, hall.idle⟩
  · rw [execAll_cons_of_next (exec_boot base entry image hjob hidle), List.replicate_succ', execAll_append_of_next hrun,
      execAll_cons_of_next hreply]
    rfl
  · rw [List.append_assoc]
    exact hall.link_eq

end Sys2Proof.Machine
end

section
/-! PROOF. The turns of the link, the executor and the reply wires (44_link_protocol.md R180, R189): the event each act
of the link offers, and the turns at which none occurs. -/

namespace Sys2Proof.Machine

/-! ### What an act of the link comes to -/

section Acts

variable {s : State} {act : LinkAct}

theorem linkTurn_duplicate {b : Byte} {rest : List Byte} (hfaults : s.params.linkFaults = .any)
    (hfwd : s.link.fwd = b :: rest) (mask : Byte) : linkTurn (.duplicate mask) s = offer (.dRx (b ^^^ mask)) s s := by
  simp [linkTurn, hfwd, hfaults]

theorem linkTurn_insert (hfaults : s.params.linkFaults = .any) (b : Byte) :
    linkTurn (.insert b) s = offer (.dRx b) s s := by
  simp [linkTurn, hfaults]

theorem linkTurn_lose {b : Byte} {rest : List Byte} (hfaults : s.params.linkFaults = .any)
    (hfwd : s.link.fwd = b :: rest) : linkTurn .lose s = .quiet (s.withFwd rest) := by
  simp [linkTurn, hfwd, hfaults]

theorem replyTurn_duplicate {b : Byte} {rest : List Byte} (hfaults : s.params.linkFaults = .any)
    (hback : s.link.back = b :: rest) (mask : Byte) :
    replyTurn (.duplicate mask) s = offer (readReply (b ^^^ mask) s) s s := by
  simp [replyTurn, hback, hfaults]

theorem replyTurn_insert (hfaults : s.params.linkFaults = .any) (b : Byte) :
    replyTurn (.insert b) s = offer (readReply b s) s s := by
  simp [replyTurn, hfaults]

theorem replyTurn_lose {b : Byte} {rest : List Byte} (hfaults : s.params.linkFaults = .any)
    (hback : s.link.back = b :: rest) : replyTurn .lose s = .quiet (s.withBack rest) := by
  simp [replyTurn, hback, hfaults]

/-- The read is a reply row where a pseudo-operation is in progress, and R.DEC where none is (44_link_protocol.md R180;
43_reply_codec.md R173). -/
theorem readReply_eq (b : Byte) (s : State) :
    readReply b s = if s.producer.job = none then .rDec [b] else decodeReply [b] := by
  cases hjob : s.producer.job <;> simp [readReply, hjob]

/-- Whatever the link would deliver to unit D waits while D.RX is not enabled (42_frame_decoder.md R142). -/
theorem linkTurn_of_rx_disabled (hoff : rxEnabled s.d = false) (hact : act ≠ .lose) : linkTurn act s = .quiet s := by
  have hwait (b : Byte) (taken : State) : offer (.dRx b) taken s = .quiet s := if_neg (Bool.eq_false_iff.1 hoff)
  cases act with
  | lose => exact absurd rfl hact
  | deliver mask => cases hfwd : s.link.fwd <;> simp [linkTurn, hfwd, hwait]
  | duplicate mask =>
    cases hfaults : s.params.linkFaults with
    | corruptOnly => simp [linkTurn, hfaults]
    | any => cases hfwd : s.link.fwd <;> simp [linkTurn, hfwd, hfaults, hwait]
  | insert b => cases hfaults : s.params.linkFaults <;> simp [linkTurn, hfaults, hwait]

/-- With `corrupt_only` the link delivers, towards either end, and does nothing else (44_link_protocol.md R180). -/
theorem linkTurn_of_corruptOnly (hfaults : s.params.linkFaults = .corruptOnly) (hact : ∀ mask, act ≠ .deliver mask) :
    linkTurn act s = .quiet s ∧ replyTurn act s = .quiet s := by
  cases act with
  | deliver mask => exact absurd rfl (hact mask)
  | lose | duplicate _ | insert _ => simp [linkTurn, replyTurn, hfaults]

end Acts

/-! ### Turns of the link at which it offers an event -/

section Offers

variable {s taken : State} {act : LinkAct} {moves : List Move} {b : Byte}

/-- A byte the link offers to unit D is a D.RX where unit D takes it (44_link_protocol.md R180). -/
theorem step_of_link_offer (hmoves : s.moves = .link act :: moves) (hlink : s.params.drivers.link = .agent)
    (hon : rxEnabled s.d = true) (hoffer : linkTurn act s.takeTurn = offer (.dRx b) taken s.takeTurn) :
    step s = exec (.dRx b) taken :=
  step_of_offer ((turnOf_link hmoves hlink).trans hoffer) hon

/-- A byte the link offers to the producer is read in every state (44_link_protocol.md R180, 43_reply_codec.md R173). -/
theorem step_of_reply_offer (hmoves : s.moves = .producer act :: moves) (hlink : s.params.drivers.link = .agent)
    (hoffer : replyTurn act s.takeTurn = offer (readReply b s.takeTurn) taken s.takeTurn) :
    step s = exec (if s.producer.job = none then .rDec [b] else decodeReply [b]) taken := by
  rw [step_of_offer ((turnOf_producer hmoves hlink).trans hoffer) (readReply_enabled _ _ _), readReply_eq,
    takeTurn_producer]

end Offers

/-! ### Turns at which no event occurs -/

@[simp] theorem agentTurn_quiet_self (driver : Driver) (s : State) : agentTurn driver (.quiet s) s = .quiet s := by
  cases driver <;> rfl

section QuietTurns

variable {s : State} {act : LinkAct} {moves : List Move}

theorem turnOf_link_of_quiet (hmoves : s.moves = .link act :: moves)
    (hquiet : linkTurn act s.takeTurn = .quiet s.takeTurn) : turnOf s = .quiet s.takeTurn := by
  simp [turnOf, move_of_moves hmoves, hquiet]

theorem turnOf_producer_of_quiet (hmoves : s.moves = .producer act :: moves)
    (hquiet : replyTurn act s.takeTurn = .quiet s.takeTurn) : turnOf s = .quiet s.takeTurn := by
  simp [turnOf, move_of_moves hmoves, hquiet]

/-- Where the outside stands for the link, no turn of the link's own comes to anything (60_exceptions.md R213). -/
theorem turnOf_of_link_outside (hlink : s.params.drivers.link = .outside)
    (hmoves : s.moves = .link act :: moves ∨ s.moves = .producer act :: moves ∨ s.moves = .replyOut :: moves) :
    turnOf s = .quiet s.takeTurn := by
  rcases hmoves with h | h | h <;> simp [turnOf, move_of_moves h, hlink]

theorem turnOf_of_executor_outside {ok : Bool} (hexecutor : s.params.drivers.executor = .outside)
    (hmoves : s.moves = .executor ok :: moves) : turnOf s = .quiet s.takeTurn := by
  simp [turnOf, move_of_moves hmoves, hexecutor]

end QuietTurns

/-- Settles O53: each clause is the turn of one agent with one act, which offers an enabled event or is quiet. -/
theorem agentsTakeTheirEvents : Obligations.AgentsTakeTheirEvents := by
  intro s u moves hu
  subst hu
  have hquiet {m : Move} (hmoves : s.moves = m :: moves) (h : turnOf s = .quiet s.takeTurn) :
      step s = .next { s with moves := moves, tick := s.tick + 1 } :=
    takeTurn_of_moves hmoves ▸ step_of_quiet h
  refine ⟨?rx, ?busy, ?read, ?lose, ?corruptOnly, ?report, ?replyOut, ?linkOutside, ?executorOutside⟩
  case rx =>
    intro hlink hexec hrply mask b rest
    have hon : rxEnabled s.d = true := by simp [rxEnabled, hexec, hrply]
    refine ⟨fun hmoves hfwd => ?_, fun hfaults hmoves hfwd => ?_, fun hfaults hmoves => ?_⟩
    · rw [step_of_link_offer hmoves hlink hon (linkTurn_deliver (s := s.takeTurn) hfwd mask), takeTurn_of_moves hmoves]
      rfl
    · rw [step_of_link_offer hmoves hlink hon (linkTurn_duplicate (s := s.takeTurn) hfaults hfwd mask),
        takeTurn_of_moves hmoves]
    · rw [step_of_link_offer hmoves hlink hon (linkTurn_insert (s := s.takeTurn) hfaults b), takeTurn_of_moves hmoves]
  case busy =>
    intro hbusy act hact hmoves
    exact hquiet hmoves (turnOf_link_of_quiet hmoves
      (linkTurn_of_rx_disabled ((rxEnabled_eq_false_iff s.d).2 hbusy) hact))
  case read =>
    intro hlink mask b rest
    refine ⟨fun hmoves hback => ?_, fun hfaults hmoves hback => ?_, fun hfaults hmoves => ?_⟩
    · rw [step_of_reply_offer hmoves hlink (replyTurn_deliver (s := s.takeTurn) hback mask), takeTurn_of_moves hmoves]
      rfl
    · rw [step_of_reply_offer hmoves hlink (replyTurn_duplicate (s := s.takeTurn) hfaults hback mask),
        takeTurn_of_moves hmoves]
    · rw [step_of_reply_offer hmoves hlink (replyTurn_insert (s := s.takeTurn) hfaults b), takeTurn_of_moves hmoves]
  case lose =>
    intro hlink hfaults b rest
    refine ⟨fun hmoves hfwd => ?_, fun hmoves hback => ?_⟩
    · rw [step_of_quiet ((turnOf_link hmoves hlink).trans (linkTurn_lose hfaults hfwd)), takeTurn_of_moves hmoves]
      rfl
    · rw [step_of_quiet ((turnOf_producer hmoves hlink).trans (replyTurn_lose hfaults hback)), takeTurn_of_moves hmoves]
      rfl
  case corruptOnly =>
    intro hfaults act hact hmoves
    obtain ⟨hfwd, hback⟩ := linkTurn_of_corruptOnly (s := s.takeTurn) hfaults hact
    rcases hmoves with hmoves | hmoves
    · exact hquiet hmoves (turnOf_link_of_quiet hmoves hfwd)
    · exact hquiet hmoves (turnOf_producer_of_quiet hmoves hback)
  case report =>
    intro hexecutor hexec ok hmoves
    rw [step_of_offer (turnOf_executor hmoves hexecutor) (beq_iff_eq.2 hexec), takeTurn_of_moves hmoves]
  case replyOut =>
    intro hlink hrply hmoves
    rw [step_of_offer (turnOf_replyOut hmoves hlink) (beq_iff_eq.2 hrply), takeTurn_of_moves hmoves]
  case linkOutside =>
    intro hlink act hmoves
    have h := turnOf_of_link_outside hlink hmoves
    rcases hmoves with hmoves | hmoves | hmoves <;> exact hquiet hmoves h
  case executorOutside =>
    intro hexecutor ok hmoves
    exact hquiet hmoves (turnOf_of_executor_outside hexecutor hmoves)

end Sys2Proof.Machine
end

section
/-! PROOF. Reset (70_reset_and_hazards.md R230, R232, R233): the turn that resets the block, what it leaves as it is, and
the first state. -/

namespace Sys2Proof.Machine

/-- A reset writes units C, E and D, and the target of a command it abandons, and nothing else (R232, R233). -/
theorem blockReset_frame (s : State) :
    blockReset s =
      { s with c := (blockReset s).c, e := (blockReset s).e, d := (blockReset s).d, target := abandonCommand s } :=
  rfl

/-- Where no command is with the executor, a reset abandons none. -/
theorem abandonCommand_of_ne_exec {s : State} (h : s.d.state ≠ .exec) : abandonCommand s = s.target :=
  if_neg h

theorem step_of_reset {s : State} {moves : List Move} (hmoves : s.moves = .reset :: moves) :
    step s = .next (blockReset s.takeTurn) :=
  step_of_quiet (by simp [turnOf, move_of_moves hmoves])

/-- What a reset leaves as it is, counted from the state before its turn. -/
theorem blockReset_takeTurn_frame {s : State} {moves : List Move} (hmoves : s.moves = .reset :: moves) :
    let t := blockReset s.takeTurn
    t = { s with c := t.c, e := t.e, d := t.d, target := t.target, moves := moves, tick := s.tick + 1 } := by
  rw [takeTurn_of_moves hmoves]
  exact blockReset_frame _

/-- Settles O54: the step of a reset is `blockReset` once its turn is used up, and using up the turn moves no unit. -/
theorem resetSetsTheThreeValues : Obligations.ResetSetsTheThreeValues := by
  refine ⟨fun s moves hmoves => ?step, rfl, rfl, rfl⟩
  have hkeep : s.d.state ≠ .exec → (blockReset s.takeTurn).target = s.target :=
    fun hexec => abandonCommand_of_ne_exec (s := s.takeTurn) hexec
  exact ⟨blockReset s.takeTurn, step_of_reset hmoves, blockReset_takeTurn_frame hmoves, hkeep,
    blockReset_c _, blockReset_e_state _, blockReset_d_state _⟩

end Sys2Proof.Machine
end
